-- ==== Sys2Proof/Word.lean ====
section
/-! DEFINITION. The word types of the core and their plainest arithmetic
(spec/00_scope.md R7, R9; spec/10_state.md R20, R22, R24, R25, R27). -/

namespace Sys2Proof

/-- A byte: a general register, a timer, a byte of memory (R7). -/
abbrev Byte := BitVec 8

/-- A 16-bit word: pc, I, a stack entry, an instruction word (R7). -/
abbrev Word := BitVec 16

/-- The 12-bit address operand nnn (30_encoding.md R71). -/
abbrev Addr := BitVec 12

/-- A general register's number, from a 4-bit field (10_state.md R22). -/
abbrev RegIdx := Fin 16

/-- A logical key, 0x0 to 0xF (00_scope.md R7). -/
abbrev Key := Fin 16

/-- `zext_16` of a byte (00_scope.md R9). -/
abbrev zextByte (b : Byte) : Word := b.setWidth 16

/-- `zext_16` of a 12-bit address (00_scope.md R9, 30_encoding.md R73). -/
abbrev zextAddr (a : Addr) : Word := a.setWidth 16

/-- The register VF, which is also the flag (10_state.md R21). -/
abbrev regF : RegIdx := 15

end Sys2Proof
end

