-- ==== Sys2Proof/Syntax.lean ====
section
/-! DEFINITION. The 34 instructions of spec/opcode_table.json, in the table's order
(spec/30_encoding.md R72, R76). -/

namespace Sys2Proof

/-- An instruction with its operand fields (30_encoding.md R71): x, y register numbers, kk an 8-bit
immediate, nnn a 12-bit address, n a sprite height.  SHR and SHL keep the y field they encode and do
not read (43_alu.md R148, R150). -/
inductive Instr where
  | cls
  | ret
  | jp (nnn : Addr)
  | call (nnn : Addr)
  | seVxKk (x : RegIdx) (kk : Byte)
  | sneVxKk (x : RegIdx) (kk : Byte)
  | seVxVy (x y : RegIdx)
  | ldVxKk (x : RegIdx) (kk : Byte)
  | addVxKk (x : RegIdx) (kk : Byte)
  | ldVxVy (x y : RegIdx)
  | or (x y : RegIdx)
  | and (x y : RegIdx)
  | xor (x y : RegIdx)
  | addVxVy (x y : RegIdx)
  | sub (x y : RegIdx)
  | shr (x y : RegIdx)
  | subn (x y : RegIdx)
  | shl (x y : RegIdx)
  | sneVxVy (x y : RegIdx)
  | ldI (nnn : Addr)
  | jpV0 (nnn : Addr)
  | rnd (x : RegIdx) (kk : Byte)
  | drw (x y : RegIdx) (n : Nat)
  | skp (x : RegIdx)
  | sknp (x : RegIdx)
  | ldVxDt (x : RegIdx)
  | ldVxK (x : RegIdx)
  | ldDtVx (x : RegIdx)
  | ldStVx (x : RegIdx)
  | addIVx (x : RegIdx)
  | ldFVx (x : RegIdx)
  | ldBVx (x : RegIdx)
  | ldMemVx (x : RegIdx)
  | ldVxMem (x : RegIdx)
  deriving DecidableEq, Repr

end Sys2Proof
end

