-- ==== Sys2Proof/WellFormed.lean ====
section
/-! DEFINITION. When an instruction fits its encoding (spec/30_encoding.md R71, R73). Register numbers,
immediates and addresses carry their width in their types; the one count that does not, the sprite
height, is checked here. -/

namespace Sys2Proof

/-- The sprite height is a 4-bit field: n is 0 to 15 (30_encoding.md R73); every other operand is within
its field by its type. -/
def Instr.wellFormed : Instr → Bool
  | .drw _ _ n => decide (n ≤ 15)
  | .cls | .ret => true
  | .jp _ | .call _ | .ldI _ | .jpV0 _ => true
  | .seVxKk _ _ | .sneVxKk _ _ | .ldVxKk _ _ | .addVxKk _ _ | .rnd _ _ => true
  | .seVxVy _ _ | .ldVxVy _ _ | .or _ _ | .and _ _ | .xor _ _ | .addVxVy _ _ => true
  | .sub _ _ | .shr _ _ | .subn _ _ | .shl _ _ | .sneVxVy _ _ => true
  | .skp _ | .sknp _ | .ldVxDt _ | .ldVxK _ | .ldDtVx _ | .ldStVx _ => true
  | .addIVx _ | .ldFVx _ | .ldBVx _ | .ldMemVx _ | .ldVxMem _ => true

end Sys2Proof
end

