-- ==== Sys2Proof/Decode.lean ====
section
/-! DEFINITION. The decoder and the encoder of spec/30_encoding.md, and the opcode table as rows. -/

namespace Sys2Proof

/-- Why bytes are no instruction. `unknownOpcode`: the word matches no row (R77, R78). `truncated`: fewer
than the two bytes of a word (R70). -/
inductive DecodeError where
  | unknownOpcode (w : Word)
  | truncated
  deriving DecidableEq, Repr

/-! ### Fields (R71) -/

/-- The family nibble w[15:12]. -/
def fieldOp (w : Word) : Nat := (w.extractLsb' 12 4).toNat

/-- x = w[11:8]. -/
def fieldX (w : Word) : RegIdx := (w.extractLsb' 8 4).toFin

/-- y = w[7:4]. -/
def fieldY (w : Word) : RegIdx := (w.extractLsb' 4 4).toFin

/-- n = w[3:0]. -/
def fieldN (w : Word) : Nat := (w.extractLsb' 0 4).toNat

/-- kk = w[7:0]. -/
def fieldKk (w : Word) : Byte := w.extractLsb' 0 8

/-- nnn = w[11:0]. -/
def fieldNnn (w : Word) : Addr := w.extractLsb' 0 12

/-! ### The decoder (R74, R75): first the top nibble, then within families 0, 8, E and F a selector -/

/-- Family 0: the low byte selects, and with `DECODE_LENIENT = false` bits [11:8] must be 0 (R75). -/
def decodeFamily0 (lenient : Bool) (w : Word) : Except DecodeError Instr :=
  if lenient || (fieldX w).val == 0 then
    match (fieldKk w).toNat with
    | 0xE0 => .ok .cls
    | 0xEE => .ok .ret
    | _ => .error (.unknownOpcode w)
  else .error (.unknownOpcode w)

/-- Family 8: the low nibble selects (R74). -/
def decodeFamily8 (w : Word) : Except DecodeError Instr :=
  match fieldN w with
  | 0x0 => .ok (.ldVxVy (fieldX w) (fieldY w))
  | 0x1 => .ok (.or (fieldX w) (fieldY w))
  | 0x2 => .ok (.and (fieldX w) (fieldY w))
  | 0x3 => .ok (.xor (fieldX w) (fieldY w))
  | 0x4 => .ok (.addVxVy (fieldX w) (fieldY w))
  | 0x5 => .ok (.sub (fieldX w) (fieldY w))
  | 0x6 => .ok (.shr (fieldX w) (fieldY w))
  | 0x7 => .ok (.subn (fieldX w) (fieldY w))
  | 0xE => .ok (.shl (fieldX w) (fieldY w))
  | _ => .error (.unknownOpcode w)

/-- Family E: the low byte selects (R74). -/
def decodeFamilyE (w : Word) : Except DecodeError Instr :=
  match (fieldKk w).toNat with
  | 0x9E => .ok (.skp (fieldX w))
  | 0xA1 => .ok (.sknp (fieldX w))
  | _ => .error (.unknownOpcode w)

/-- Family F: the low byte selects (R74). -/
def decodeFamilyF (w : Word) : Except DecodeError Instr :=
  match (fieldKk w).toNat with
  | 0x07 => .ok (.ldVxDt (fieldX w))
  | 0x0A => .ok (.ldVxK (fieldX w))
  | 0x15 => .ok (.ldDtVx (fieldX w))
  | 0x18 => .ok (.ldStVx (fieldX w))
  | 0x1E => .ok (.addIVx (fieldX w))
  | 0x29 => .ok (.ldFVx (fieldX w))
  | 0x33 => .ok (.ldBVx (fieldX w))
  | 0x55 => .ok (.ldMemVx (fieldX w))
  | 0x65 => .ok (.ldVxMem (fieldX w))
  | _ => .error (.unknownOpcode w)

/-- Families 5 and 9: bits [3:0] must be 0 unless the decoder is lenient (R75). -/
def decodePair (lenient : Bool) (w : Word) (i : Instr) : Except DecodeError Instr :=
  if lenient || fieldN w == 0 then .ok i else .error (.unknownOpcode w)

/-- The decoder: total on every word, an instruction or "unknown opcode" (R77). -/
def decode (lenient : Bool) (w : Word) : Except DecodeError Instr :=
  match fieldOp w with
  | 0x0 => decodeFamily0 lenient w
  | 0x1 => .ok (.jp (fieldNnn w))
  | 0x2 => .ok (.call (fieldNnn w))
  | 0x3 => .ok (.seVxKk (fieldX w) (fieldKk w))
  | 0x4 => .ok (.sneVxKk (fieldX w) (fieldKk w))
  | 0x5 => decodePair lenient w (.seVxVy (fieldX w) (fieldY w))
  | 0x6 => .ok (.ldVxKk (fieldX w) (fieldKk w))
  | 0x7 => .ok (.addVxKk (fieldX w) (fieldKk w))
  | 0x8 => decodeFamily8 w
  | 0x9 => decodePair lenient w (.sneVxVy (fieldX w) (fieldY w))
  | 0xA => .ok (.ldI (fieldNnn w))
  | 0xB => .ok (.jpV0 (fieldNnn w))
  | 0xC => .ok (.rnd (fieldX w) (fieldKk w))
  | 0xD => .ok (.drw (fieldX w) (fieldY w) (fieldN w))
  | 0xE => decodeFamilyE w
  | 0xF => decodeFamilyF w
  | _ => .error (.unknownOpcode w)

/-- Two bytes make a word, the first one (at the lower address) high (20_memory.md R52). -/
def wordOfBytes (hi lo : Byte) : Word := hi ++ lo

/-- The decoder over bytes in memory order: the instruction and the bytes after it, or the reason there is
none. -/
def decodeBytes (lenient : Bool) : List Byte → Except DecodeError (Instr × List Byte)
  | hi :: lo :: rest => (decode lenient (wordOfBytes hi lo)).map fun i => (i, rest)
  | _ => .error .truncated

/-! ### The encoder, from the formats of R72 -/

/-- Format `A`: `oooo nnnn nnnn nnnn`. -/
def wordA (op : Nat) (nnn : Addr) : Word := BitVec.ofNat 16 (op * 0x1000 + nnn.toNat)

/-- Formats `XK` and `X`: `oooo xxxx kkkk kkkk`. -/
def wordXK (op : Nat) (x : RegIdx) (kk : Byte) : Word :=
  BitVec.ofNat 16 (op * 0x1000 + x.val * 0x100 + kk.toNat)

/-- Formats `XY` and `XYN`: `oooo xxxx yyyy nnnn`. -/
def wordXYN (op : Nat) (x y : RegIdx) (n : Nat) : Word :=
  BitVec.ofNat 16 (op * 0x1000 + x.val * 0x100 + y.val * 0x10 + n)

/-- The word of an instruction (R72, R76). -/
def encode : Instr → Word
  | .cls => 0x00E0#16
  | .ret => 0x00EE#16
  | .jp nnn => wordA 0x1 nnn
  | .call nnn => wordA 0x2 nnn
  | .seVxKk x kk => wordXK 0x3 x kk
  | .sneVxKk x kk => wordXK 0x4 x kk
  | .seVxVy x y => wordXYN 0x5 x y 0x0
  | .ldVxKk x kk => wordXK 0x6 x kk
  | .addVxKk x kk => wordXK 0x7 x kk
  | .ldVxVy x y => wordXYN 0x8 x y 0x0
  | .or x y => wordXYN 0x8 x y 0x1
  | .and x y => wordXYN 0x8 x y 0x2
  | .xor x y => wordXYN 0x8 x y 0x3
  | .addVxVy x y => wordXYN 0x8 x y 0x4
  | .sub x y => wordXYN 0x8 x y 0x5
  | .shr x y => wordXYN 0x8 x y 0x6
  | .subn x y => wordXYN 0x8 x y 0x7
  | .shl x y => wordXYN 0x8 x y 0xE
  | .sneVxVy x y => wordXYN 0x9 x y 0x0
  | .ldI nnn => wordA 0xA nnn
  | .jpV0 nnn => wordA 0xB nnn
  | .rnd x kk => wordXK 0xC x kk
  | .drw x y n => wordXYN 0xD x y n
  | .skp x => wordXK 0xE x 0x9E
  | .sknp x => wordXK 0xE x 0xA1
  | .ldVxDt x => wordXK 0xF x 0x07
  | .ldVxK x => wordXK 0xF x 0x0A
  | .ldDtVx x => wordXK 0xF x 0x15
  | .ldStVx x => wordXK 0xF x 0x18
  | .addIVx x => wordXK 0xF x 0x1E
  | .ldFVx x => wordXK 0xF x 0x29
  | .ldBVx x => wordXK 0xF x 0x33
  | .ldMemVx x => wordXK 0xF x 0x55
  | .ldVxMem x => wordXK 0xF x 0x65

/-- The instruction's bytes in memory order (20_memory.md R52). -/
def encodeBytes (i : Instr) : List Byte :=
  [(encode i).extractLsb' 8 8, (encode i).extractLsb' 0 8]

/-! ### The opcode table as rows (R75, R76) -/

/-- A row: the table's mnemonic, the match value, the strict mask and the lenient mask. -/
structure OpRow where
  mnemonic : String
  mtch : Word
  mask : Word
  lenientMask : Word
  deriving DecidableEq, Repr

/-- The mask in force (R75). -/
def OpRow.maskFor (r : OpRow) (lenient : Bool) : Word := if lenient then r.lenientMask else r.mask

/-- "A word w is instruction k when `w & mask_k = match_k`" (R76). -/
def OpRow.covers (r : OpRow) (lenient : Bool) (w : Word) : Prop := w &&& r.maskFor lenient = r.mtch

/-- The row of each instruction (R76; opcode_table.json). -/
def Instr.row : Instr → OpRow
  | .cls => ⟨"CLS", 0x00E0#16, 0xFFFF#16, 0xF0FF#16⟩
  | .ret => ⟨"RET", 0x00EE#16, 0xFFFF#16, 0xF0FF#16⟩
  | .jp _ => ⟨"JP", 0x1000#16, 0xF000#16, 0xF000#16⟩
  | .call _ => ⟨"CALL", 0x2000#16, 0xF000#16, 0xF000#16⟩
  | .seVxKk _ _ => ⟨"SE_VX_KK", 0x3000#16, 0xF000#16, 0xF000#16⟩
  | .sneVxKk _ _ => ⟨"SNE_VX_KK", 0x4000#16, 0xF000#16, 0xF000#16⟩
  | .seVxVy _ _ => ⟨"SE_VX_VY", 0x5000#16, 0xF00F#16, 0xF000#16⟩
  | .ldVxKk _ _ => ⟨"LD_VX_KK", 0x6000#16, 0xF000#16, 0xF000#16⟩
  | .addVxKk _ _ => ⟨"ADD_VX_KK", 0x7000#16, 0xF000#16, 0xF000#16⟩
  | .ldVxVy _ _ => ⟨"LD_VX_VY", 0x8000#16, 0xF00F#16, 0xF00F#16⟩
  | .or _ _ => ⟨"OR", 0x8001#16, 0xF00F#16, 0xF00F#16⟩
  | .and _ _ => ⟨"AND", 0x8002#16, 0xF00F#16, 0xF00F#16⟩
  | .xor _ _ => ⟨"XOR", 0x8003#16, 0xF00F#16, 0xF00F#16⟩
  | .addVxVy _ _ => ⟨"ADD_VX_VY", 0x8004#16, 0xF00F#16, 0xF00F#16⟩
  | .sub _ _ => ⟨"SUB", 0x8005#16, 0xF00F#16, 0xF00F#16⟩
  | .shr _ _ => ⟨"SHR", 0x8006#16, 0xF00F#16, 0xF00F#16⟩
  | .subn _ _ => ⟨"SUBN", 0x8007#16, 0xF00F#16, 0xF00F#16⟩
  | .shl _ _ => ⟨"SHL", 0x800E#16, 0xF00F#16, 0xF00F#16⟩
  | .sneVxVy _ _ => ⟨"SNE_VX_VY", 0x9000#16, 0xF00F#16, 0xF000#16⟩
  | .ldI _ => ⟨"LD_I", 0xA000#16, 0xF000#16, 0xF000#16⟩
  | .jpV0 _ => ⟨"JP_V0", 0xB000#16, 0xF000#16, 0xF000#16⟩
  | .rnd _ _ => ⟨"RND", 0xC000#16, 0xF000#16, 0xF000#16⟩
  | .drw _ _ _ => ⟨"DRW", 0xD000#16, 0xF000#16, 0xF000#16⟩
  | .skp _ => ⟨"SKP", 0xE09E#16, 0xF0FF#16, 0xF0FF#16⟩
  | .sknp _ => ⟨"SKNP", 0xE0A1#16, 0xF0FF#16, 0xF0FF#16⟩
  | .ldVxDt _ => ⟨"LD_VX_DT", 0xF007#16, 0xF0FF#16, 0xF0FF#16⟩
  | .ldVxK _ => ⟨"LD_VX_K", 0xF00A#16, 0xF0FF#16, 0xF0FF#16⟩
  | .ldDtVx _ => ⟨"LD_DT_VX", 0xF015#16, 0xF0FF#16, 0xF0FF#16⟩
  | .ldStVx _ => ⟨"LD_ST_VX", 0xF018#16, 0xF0FF#16, 0xF0FF#16⟩
  | .addIVx _ => ⟨"ADD_I_VX", 0xF01E#16, 0xF0FF#16, 0xF0FF#16⟩
  | .ldFVx _ => ⟨"LD_F_VX", 0xF029#16, 0xF0FF#16, 0xF0FF#16⟩
  | .ldBVx _ => ⟨"LD_B_VX", 0xF033#16, 0xF0FF#16, 0xF0FF#16⟩
  | .ldMemVx _ => ⟨"LD_MEM_VX", 0xF055#16, 0xF0FF#16, 0xF0FF#16⟩
  | .ldVxMem _ => ⟨"LD_VX_MEM", 0xF065#16, 0xF0FF#16, 0xF0FF#16⟩

/-- One instruction of each row, in the order of R76. -/
def rowSamples : List Instr :=
  [.cls, .ret, .jp 0, .call 0, .seVxKk 0 0, .sneVxKk 0 0, .seVxVy 0 0, .ldVxKk 0 0, .addVxKk 0 0]
  ++ [.ldVxVy 0 0, .or 0 0, .and 0 0, .xor 0 0, .addVxVy 0 0, .sub 0 0, .shr 0 0, .subn 0 0, .shl 0 0]
  ++ [.sneVxVy 0 0, .ldI 0, .jpV0 0, .rnd 0 0, .drw 0 0 0, .skp 0, .sknp 0]
  ++ [.ldVxDt 0, .ldVxK 0, .ldDtVx 0, .ldStVx 0, .addIVx 0, .ldFVx 0, .ldBVx 0, .ldMemVx 0, .ldVxMem 0]

/-- The 34 rows of R76. -/
def opcodeTable : List OpRow := rowSamples.map Instr.row

/-! ### The host's question -/

/-- The instruction the strict decoder (00_scope.md R8's value) reads from the two bytes of the word w, laid
out high byte first; no instruction is longer than 16 bits (R70). -/
def decodeTableWord (nbits w : Nat) : Option Instr :=
  if nbits ≤ 16 then
    let word : Word := BitVec.ofNat 16 (w % 2 ^ nbits)
    match decodeBytes false [word.extractLsb' 8 8, word.extractLsb' 0 8] with
    | .ok (i, _) => some i
    | .error _ => none
  else none

end Sys2Proof
end

