-- ==== Sys2Proof/Config.lean ====
section
/-! DEFINITION. The parameters a model takes as arguments (spec/00_scope.md R8), as plain data,
the fixed sizes (R7), and the one free value: the random byte. -/

namespace Sys2Proof

/-- Bytes of main memory (00_scope.md R7; 10_state.md R28). -/
abbrev memSize : Nat := 4096

/-- Where programs load and where execution begins (20_memory.md R59). -/
abbrev progBase : Nat := 0x200

/-- The largest program (70_reset_and_hazards.md R233). -/
abbrev maxRom : Nat := 3584

/-- `MEM_OOB_POLICY` (00_scope.md R8; 20_memory.md R55). -/
inductive OobPolicy where
  | fault
  | wrap
  deriving DecidableEq, Repr

/-- `KEY_INDEX_POLICY` (00_scope.md R8; 42_skip.md R134). -/
inductive KeyPolicy where
  | fault
  | mask
  deriving DecidableEq, Repr

/-- The parameters of 00_scope.md R8.  They are fixed for a machine; they stand in the state (field
`params`, which no step changes) because the host's `step` takes nothing else, so that every statement
is about every setting of them (log 1). -/
structure Params where
  /-- `IPF`, the most instruction steps between two ticks; R8 asks for at least 1. -/
  ipf : Nat
  /-- The clock divider: `none` when the tick arrives as a strobe from outside, `some DIV` when it is
  made inside the block (60_exceptions.md R210, R215). -/
  divider : Option Nat
  memOob : OobPolicy
  decodeLenient : Bool
  unknownPcAdvance : Bool
  keyIndex : KeyPolicy
  /-- `FONT`: glyph d, row r, the leftmost pixel in bit 7 (10_state.md R29). -/
  font : Vector (Vector Byte 5) 16
  deriving DecidableEq, Repr

/-- The bounds R8 puts on the open parameters: IPF is at least 1, and a divider ratio is at least 1
(R215 counts from 0 to DIV - 1). -/
def Params.wf (p : Params) : Bool :=
  decide (1 ≤ p.ipf) && (match p.divider with | none => true | some d => decide (1 ≤ d))

/-- FREE VALUE: the byte the random input presents at the n-th draw for which the environment has fixed
no byte.  It has no body, so nothing can be proved of it: every byte is possible at every draw
(60_exceptions.md R219; log 8). -/
opaque Config.freeByte : Nat → Byte

end Sys2Proof
end

