-- ==== Sys2Proof/Machine/Defaults.lean ====
section
/-! DEFINITION. The values the parameters take at reset: the spec's choices (spec/00_scope.md R8), the
fontset (spec/10_state.md R29), and what a byte of memory that nothing has written holds (R40). -/

namespace Sys2Proof.Machine

/-- The fontset table of 10_state.md R29: glyph d stands at address 5d.  PRESUMED (log 4): the spec takes
the bytes from general knowledge. -/
def fontset : Vector (Vector Byte 5) 16 :=
  #v[ #v[0xF0, 0x90, 0x90, 0x90, 0xF0], #v[0x20, 0x60, 0x20, 0x20, 0x70],
      #v[0xF0, 0x10, 0xF0, 0x80, 0xF0], #v[0xF0, 0x10, 0xF0, 0x10, 0xF0],
      #v[0x90, 0x90, 0xF0, 0x10, 0x10], #v[0xF0, 0x80, 0xF0, 0x10, 0xF0],
      #v[0xF0, 0x80, 0xF0, 0x90, 0xF0], #v[0xF0, 0x10, 0x20, 0x40, 0x40],
      #v[0xF0, 0x90, 0xF0, 0x90, 0xF0], #v[0xF0, 0x90, 0xF0, 0x10, 0xF0],
      #v[0xF0, 0x90, 0xF0, 0x90, 0x90], #v[0xE0, 0x90, 0xE0, 0x90, 0xE0],
      #v[0xF0, 0x80, 0x80, 0x80, 0xF0], #v[0xE0, 0x90, 0x90, 0x90, 0xE0],
      #v[0xF0, 0x80, 0xF0, 0x80, 0xF0], #v[0xF0, 0x80, 0xF0, 0x80, 0x80] ]

/-- The parameters at reset: the policies at the values R8 fixes; IPF at 10, one of the values R8 calls
near historical (DESIGN CHOICE, log 2); the tick from outside (DESIGN CHOICE, log 3). -/
def resetParams : Params where
  ipf := 10
  divider := none
  memOob := .fault
  decodeLenient := false
  unknownPcAdvance := false
  keyIndex := .fault
  font := fontset

/-- What an address reads as when memory does not list it: its reset contents, the fontset at 0x000 to
0x04F and 0x00 elsewhere (10_state.md R40, 20_memory.md R59). -/
def resetByte (p : Params) (a : Nat) : Byte :=
  if h : a < 80 then (p.font[a / 5]'(by omega))[a % 5]'(Nat.mod_lt _ (by decide)) else 0

end Sys2Proof.Machine
end

