-- ==== Sys2Proof/Machine/State.lean ====
section
/-! DEFINITION. Everything the spec gives the machine as one record of plain data
(spec/10_state.md R20 to R37), the environment the host's step has no other place for, the reasons a step
can stop, and the state after reset (R40). -/

namespace Sys2Proof.Machine

/-- The run states of 10_state.md R34; the register number of the key wait is the field `wx`. -/
inductive Mode where
  | idle
  | run
  | waitKey
  | halted
  deriving DecidableEq, Repr

/-- The fault codes of 60_exceptions.md R200. -/
inductive FaultCode where
  | none
  | unknownOpcode
  | stackOverflow
  | stackUnderflow
  | memBounds
  | fetchBounds
  | keyRange
  | loadTooLarge
  deriving DecidableEq, Repr

/-- The numeric code of R200, as the port `fault_code` shows it. -/
def FaultCode.code : FaultCode → BitVec 3
  | .none => 0
  | .unknownOpcode => 1
  | .stackOverflow => 2
  | .stackUnderflow => 3
  | .memBounds => 4
  | .fetchBounds => 5
  | .keyRange => 6
  | .loadTooLarge => 7

/-- What the environment may do: the steps of 40_pipeline.md R110, and a change of the key levels
(60_exceptions.md R220; 70_reset_and_hazards.md R235). -/
inductive Event where
  /-- The environment lets one instruction step happen (R100). -/
  | instr
  /-- The 60 Hz strobe, when the divider is outside (60_exceptions.md R210). -/
  | tick
  /-- One cycle of the core clock, when the divider is inside (R215). -/
  | clock
  /-- A press edge of key k is reported (R220). -/
  | keyEdge (k : Key)
  /-- The key port now presents these levels, bit k for key k, 1 = pressed (R220). -/
  | keys (levels : BitVec 16)
  /-- The reset input (70_reset_and_hazards.md R230). -/
  | reset
  /-- The host's start (R232). -/
  | start
  /-- The host loads a ROM (R233). -/
  | load (rom : List Byte)
  deriving DecidableEq, Repr

/-- The environment as plain data, the model's own (logs 5, 8, 9): what it does next, the key levels it
presents, the random bytes already fixed, and how many were drawn as free values. -/
structure Env where
  agenda : List Event
  key : BitVec 16
  rndFeed : List Byte
  rndCount : Nat
  deriving DecidableEq, Repr

/-- What a host load gave back (70_reset_and_hazards.md R233). -/
inductive LoadResult where
  | success
  | tooLarge
  deriving DecidableEq, Repr

/-- The output strobes of the step that led to this state (40_pipeline.md R111; 60_exceptions.md R203,
R221; log 10): `unk` is the unknown-opcode report, the word and the pc. -/
structure Signals where
  dispClear : Bool
  frameReady : Bool
  unk : Option (Word × Word)
  loadResult : Option LoadResult
  deriving DecidableEq, Repr

/-- No strobe. -/
def Signals.quiet : Signals := ⟨false, false, none, none⟩

/-- The core.  `v`, `i`, `pc`, `stack`, `sp`, `mem`, `fb`, `dt`, `st`, `mode`, `wx`, `fault`,
`faultInfo`, `ipfCnt` and `divCnt` are the spec's state; `params`, `env` and `out` are the model's own. -/
structure State where
  /-- V0 to VF (R20). -/
  v : Vector Byte 16
  /-- The index register I (R24). -/
  i : Word
  /-- The program counter (R25). -/
  pc : Word
  /-- STACK[0] to STACK[15] (R26). -/
  stack : Vector Word 16
  /-- SP (R27). -/
  sp : BitVec 4
  /-- The bytes of memory that differ from their reset contents, addresses strictly rising (R28). -/
  mem : List Host.Cell
  /-- FB[x][y], column x, row y (R30). -/
  fb : Vector (Vector Bool 32) 64
  /-- The delay timer (R31). -/
  dt : Byte
  /-- The sound timer (R31). -/
  st : Byte
  /-- The mode register (R34). -/
  mode : Mode
  /-- The register the pending key wait writes (R34). -/
  wx : RegIdx
  /-- The sticky fault code (R35). -/
  fault : FaultCode
  /-- The faulting address or operand (R35). -/
  faultInfo : BitVec 17
  /-- Instruction steps since the last tick (R36). -/
  ipfCnt : Nat
  /-- The divider counter (R37). -/
  divCnt : Nat
  params : Params
  env : Env
  out : Signals
  deriving DecidableEq, Repr

/-- Host faults: there are none.  Every fault of the spec is a transition of the core to HALTED
(60_exceptions.md R201), so no step of this model stops with a host fault. -/
inductive Fault where
  deriving DecidableEq, Repr

/-- Why a step has no meaning. -/
inductive Refusal where
  /-- Raised by an arm of exec that has no meaning yet; no arm does.  Safe: nothing is claimed. -/
  | notModelled (mnemonic : String)
  /-- Raised by a load when the mode is not IDLE: "there is no such transition"
  (70_reset_and_hazards.md R233, R235; 93_implementation_defined.md U15).  Safe: the model stops. -/
  | loadOutsideIdle
  /-- Raised by a start when the mode is not IDLE: it "is enabled only in IDLE" (R232).  Safe. -/
  | startOutsideIdle
  /-- Raised by a tick strobe when the divider is inside: the port is then absent
  (60_exceptions.md R210, R222).  Safe. -/
  | tickStrobeWithDivider
  /-- Raised by a core clock cycle when the divider is outside: the counter is then absent (R37).  Safe. -/
  | clockWithoutDivider
  deriving DecidableEq, Repr

/-- The state after reset with given parameters and environment: 10_state.md R40. -/
def State.afterReset (p : Params) (e : Env) : State where
  v := Vector.replicate 16 0
  i := 0x0000
  pc := 0x0200
  stack := Vector.replicate 16 0
  sp := 0
  mem := []
  fb := Vector.replicate 64 (Vector.replicate 32 false)
  dt := 0x00
  st := 0x00
  mode := .idle
  wx := 0
  fault := .none
  faultInfo := 0
  ipfCnt := 0
  divCnt := 0
  params := p
  env := e
  out := Signals.quiet

/-- The machine right after reset (R40): IDLE, waiting for the host's load and start.  The environment has
fixed nothing yet (DESIGN CHOICE, logs 5, 8, 9). -/
def State.reset : State :=
  State.afterReset resetParams ⟨[], 0, [], 0⟩

end Sys2Proof.Machine
end

