-- ==== Sys2Proof/Machine/Ops.lean ====
section
/-! DEFINITION. The named operations over the state: registers, memory, the call stack, pc, the taking of
a fault, and the small updates every meaning is built from (spec/00_scope.md R10). -/

namespace Sys2Proof.Machine

/-! ### Memory: a list of the bytes that differ from their reset contents -/

/-- The byte at address a (20_memory.md R57, R62). -/
def Memory.read (p : Params) : List Host.Cell → Nat → Byte
  | [], a => resetByte p a
  | (b, w) :: t, a => if a = b then w else Memory.read p t a

/-- The list without its entry for address a. -/
def Memory.erase (a : Nat) : List Host.Cell → List Host.Cell
  | [] => []
  | (b, w) :: t => if a = b then Memory.erase a t else (b, w) :: Memory.erase a t

/-- The list with an entry put before the first one of a higher address. -/
def Memory.insert (a : Nat) (v : Byte) : List Host.Cell → List Host.Cell
  | [] => [(a, v)]
  | (b, w) :: t => if a < b then (a, v) :: (b, w) :: t else (b, w) :: Memory.insert a v t

/-- The list with address a holding v, in canonical form: writing the reset contents removes the entry. -/
def Memory.write (p : Params) (a : Nat) (v : Byte) (m : List Host.Cell) : List Host.Cell :=
  if v = resetByte p a then Memory.erase a m else Memory.insert a v (Memory.erase a m)

/-- Canonical from address lo on: addresses rise strictly from lo, stay inside memory, and no entry equals
what an unlisted address reads as. -/
def Memory.wfFrom (p : Params) : Nat → List Host.Cell → Bool
  | _, [] => true
  | lo, (a, v) :: t =>
    decide (lo ≤ a) && decide (a < memSize) && decide (v ≠ resetByte p a) && Memory.wfFrom p (a + 1) t

/-- The canonical form of memory. -/
def Memory.wf (p : Params) (m : List Host.Cell) : Bool := Memory.wfFrom p 0 m

/-- `MemRead(ea, 1)` after its address check: the byte `MEM[ea mod 4096]`.  Under FAULT a passed check means
ea is at most 0xFFF, so it is MEM[ea]; under WRAP the mask is the rule (20_memory.md R55). -/
def State.readByte (s : State) (ea : Nat) : Byte := Memory.read s.params s.mem (ea % memSize)

/-- `MemWrite(ea, 1, v)` after its address check (20_memory.md R55). -/
def State.writeByte (s : State) (ea : Nat) (v : Byte) : State :=
  { s with mem := Memory.write s.params (ea % memSize) v s.mem }

/-- `for k = 0 to n - 1: MemWrite(ea + k, 1, f k)`. -/
def State.writeBytes (f : Nat → Byte) (ea : Nat) : Nat → State → State
  | 0, s => s
  | n + 1, s => (State.writeBytes f ea n s).writeByte (ea + n) (f n)

/-! ### Registers -/

/-- A register number from a count, masked to 4 bits (10_state.md R22). -/
def regIdx (k : Nat) : RegIdx := ⟨k % 16, Nat.mod_lt _ (by decide)⟩

/-- `V[x]` (00_scope.md R10). -/
def State.reg (s : State) (x : RegIdx) : Byte := s.v[x.val]

/-- `V[x] <- b` (00_scope.md R10). -/
def State.setReg (s : State) (x : RegIdx) (b : Byte) : State := { s with v := s.v.set x.val b }

/-- `for k = 0 to n - 1: V[k] <- f k`. -/
def State.setRegs (f : Nat → Byte) : Nat → State → State
  | 0, s => s
  | n + 1, s => (State.setRegs f n s).setReg (regIdx n) (f n)

/-- `I <- w`. -/
def State.setI (s : State) (w : Word) : State := { s with i := w }

/-- `pc <- w`. -/
def State.setPc (s : State) (w : Word) : State := { s with pc := w }

/-- `pc <- pc + 2` (40_pipeline.md R107). -/
def State.advance (s : State) : State := s.setPc (s.pc + 2)

/-- `if c then pc <- pc + 4 else pc <- pc + 2` (40_pipeline.md R107; 42_skip.md R136). -/
def State.skipIf (s : State) (c : Bool) : State := s.setPc (if c then s.pc + 4 else s.pc + 2)

/-- `DT <- b`. -/
def State.setDt (s : State) (b : Byte) : State := { s with dt := b }

/-- `ST <- b`. -/
def State.setSt (s : State) (b : Byte) : State := { s with st := b }

/-! ### The call stack (10_state.md R26, R27) -/

/-- `STACK[j]`. -/
def State.stackAt (s : State) (j : BitVec 4) : Word := s.stack[j.toNat]'j.isLt

/-- `SP <- j`. -/
def State.setSp (s : State) (j : BitVec 4) : State := { s with sp := j }

/-- `STACK[j] <- w`. -/
def State.setStackAt (s : State) (j : BitVec 4) (w : Word) : State :=
  { s with stack := s.stack.set j.toNat w j.isLt }

/-- `SP <- SP + 1; STACK[SP] <- w` (41_control_flow.md R122). -/
def State.push (s : State) (w : Word) : State := (s.setSp (s.sp + 1)).setStackAt (s.sp + 1) w

/-! ### Framebuffer (10_state.md R30) -/

/-- Replace the framebuffer. -/
def State.setFb (s : State) (fb : Vector (Vector Bool 32) 64) : State := { s with fb := fb }

/-- `FB[x][y]`, the read port of 60_exceptions.md R221. -/
def State.pixel (s : State) (x : Fin 64) (y : Fin 32) : Bool := (s.fb[x.val])[y.val]

/-! ### Control state (10_state.md R34 to R37) -/

/-- `mode <- m`. -/
def State.setMode (s : State) (m : Mode) : State := { s with mode := m }

/-- `mode <- WAIT_KEY(x)` (46_timer_input.md R181). -/
def State.suspend (s : State) (x : RegIdx) : State := { s with mode := .waitKey, wx := x }

/-- TAKING A FAULT, for every fault (60_exceptions.md R201): `fault <- code`, `fault_info <- info` and
`mode <- HALTED`, and nothing else; pc keeps the address of the faulting instruction. -/
def State.raiseFault (s : State) (code : FaultCode) (info : BitVec 17) : State :=
  { s with mode := .halted, fault := code, faultInfo := info }

/-- `ipf_cnt <- n`. -/
def State.setIpfCnt (s : State) (n : Nat) : State := { s with ipfCnt := n }

/-- `div_cnt <- n`. -/
def State.setDivCnt (s : State) (n : Nat) : State := { s with divCnt := n }

/-- What the environment presents from now on. -/
def State.setEnv (s : State) (e : Env) : State := { s with env := e }

/-- The strobes of this step. -/
def State.setOut (s : State) (o : Signals) : State := { s with out := o }

end Sys2Proof.Machine
end

