-- ==== Sys2Proof/Machine/Operands.lean ====
section
/-! DEFINITION. Operand forms: the address check and the addresses of the one data addressing mode
(spec/20_memory.md R55, R56; spec/44_index_memory.md R166), key indices (spec/42_skip.md R134), the random
byte (spec/60_exceptions.md R219), decimal digits (spec/44_index_memory.md R163) and sprite bits
(spec/45_display.md R171). -/

namespace Sys2Proof.Machine

/-! ### Addresses -/

/-- Whether an access at the exact address ea passes its check (20_memory.md R55). -/
def State.inBounds (s : State) (ea : Nat) : Bool :=
  match s.params.memOob with
  | .fault => decide (ea ≤ 0xFFF)
  | .wrap => true

/-- The exact address of the byte at offset k: `I + k`, not wrapped (20_memory.md R54; 44_index_memory.md
R166). -/
def State.dataAddr (s : State) (k : Nat) : Nat := s.i.toNat + k

/-- The byte of memory that the access at offset k reaches once it has passed its check (R55). -/
def State.cellAddr (s : State) (k : Nat) : Nat := s.dataAddr k % memSize

/-- The check of every access of an instruction, before any of its writes: I to I + n - 1 (20_memory.md R56);
nothing is checked when n = 0 (45_display.md R171). -/
def State.blockInBounds (s : State) : Nat → Bool
  | 0 => true
  | n + 1 => s.blockInBounds n && s.inBounds (s.dataAddr n)

/-- `fault_info` of MEM_BOUNDS: the lowest failing address, I if I > 0xFFF, else 0x1000
(60_exceptions.md R200). -/
def State.memBoundsInfo (s : State) : BitVec 17 :=
  if s.i.toNat > 0xFFF then s.i.setWidth 17 else 0x1000#17

/-- The byte at offset k. -/
def State.dataByte (s : State) (k : Nat) : Byte := s.readByte (s.dataAddr k)

/-! ### Keys -/

/-- The key that a register's value names: above 0xF it is a fault or its low nibble
(`KEY_INDEX_POLICY`, 42_skip.md R134). -/
def State.keyIndex (s : State) (vx : Byte) : Option Key :=
  if vx.toNat > 0xF then
    match s.params.keyIndex with
    | .fault => none
    | .mask => some (regIdx vx.toNat)
  else some (regIdx vx.toNat)

/-- `KEY[k]`, the level the key port presents to this step (60_exceptions.md R220). -/
def State.keyDown (s : State) (k : Key) : Bool := s.env.key.getLsbD k.val

/-! ### The random byte -/

/-- RND, sampled by this step: the next byte the environment has fixed, and where it has fixed none a
free value (60_exceptions.md R219; log 8). -/
def State.rndByte (s : State) : Byte :=
  match s.env.rndFeed with
  | b :: _ => b
  | [] => Config.freeByte s.env.rndCount

/-- The environment after a sample: the fixed byte is used up, or the free value's counter moves on. -/
def Env.afterSample (e : Env) : Env :=
  match e.rndFeed with
  | _ :: t => { e with rndFeed := t }
  | [] => { e with rndCount := e.rndCount + 1 }

/-! ### Digits and sprites -/

/-- The decimal digits of a byte: hundreds, tens, ones (44_index_memory.md R163). -/
def bcdDigit (b : Byte) : Nat → Byte
  | 0 => BitVec.ofNat 8 (b.toNat / 100)
  | 1 => BitVec.ofNat 8 (b.toNat / 10 % 10)
  | _ => BitVec.ofNat 8 (b.toNat % 10)

/-- `B & (0x80 >> c) != 0`: the sprite's pixel in column c (45_display.md R171). -/
def spriteBit (b : Byte) (c : Nat) : Bool := b &&& (0x80#8 >>> c) != 0

end Sys2Proof.Machine
end

