-- ==== Sys2Proof/Machine/Flags.lean ====
section
/-! DEFINITION. The flag computations (spec/43_alu.md R153, spec/45_display.md R173): what the ALU and the
draw write to VF, and the order of the two writes (spec/00_scope.md R11). -/

namespace Sys2Proof.Machine

/-- "The flag values ... are exactly 0x00 or 0x01" (43_alu.md R153). -/
def flagByte (b : Bool) : Byte := if b then 0x01 else 0x00

/-- The carry of 8xy4: the exact sum exceeds 255 (R146, R153). -/
def carryOut (a b : Byte) : Bool := decide (a.toNat + b.toNat > 255)

/-- The flag of 8xy5 and 8xy7: the minuend exceeds the subtrahend strictly (R147, R149, R153). -/
def noBorrow (minuend subtrahend : Byte) : Bool := decide (minuend.toNat > subtrahend.toNat)

/-- The bit 8xy6 shifts out: bit 0 (R148). -/
def shiftedOutLow (b : Byte) : Bool := b &&& 1 != 0

/-- The bit 8xyE shifts out: bit 7 (R150). -/
def shiftedOutHigh (b : Byte) : Bool := b &&& 0x80 != 0

/-- `V[F] <- flag; V[x] <- result`, in this order, so that with x = 0xF the result replaces the flag
(00_scope.md R11). -/
def State.setFlagged (s : State) (flag : Bool) (x : RegIdx) (result : Byte) : State :=
  (s.setReg regF (flagByte flag)).setReg x result

end Sys2Proof.Machine
end

