-- ==== Sys2Proof/Machine/Alu.lean ====
section
/-! DEFINITION. Register loads and the 8-bit ALU (spec/43_alu.md R140 to R153). -/

namespace Sys2Proof.Machine

/-- LD Vx, kk, R140: `V[x] <- kk`. -/
def execLdVxKk (x : RegIdx) (kk : Byte) (s : State) : Host.Outcome State Fault Refusal :=
  .next (s.setReg x kk).advance

/-- ADD Vx, kk, R141: `V[x] <- (vx + kk) mod 256`, no flag. -/
def execAddVxKk (x : RegIdx) (kk : Byte) (s : State) : Host.Outcome State Fault Refusal :=
  .next (s.setReg x (s.reg x + kk)).advance

/-- LD Vx, Vy, R142: `V[x] <- vy`. -/
def execLdVxVy (x y : RegIdx) (s : State) : Host.Outcome State Fault Refusal :=
  .next (s.setReg x (s.reg y)).advance

/-- OR Vx, Vy, R143: `V[x] <- vx | vy`, VF not cleared. -/
def execOr (x y : RegIdx) (s : State) : Host.Outcome State Fault Refusal :=
  .next (s.setReg x (s.reg x ||| s.reg y)).advance

/-- AND Vx, Vy, R144: `V[x] <- vx & vy`, VF not cleared. -/
def execAnd (x y : RegIdx) (s : State) : Host.Outcome State Fault Refusal :=
  .next (s.setReg x (s.reg x &&& s.reg y)).advance

/-- XOR Vx, Vy, R145: `V[x] <- vx ^ vy`, VF not cleared. -/
def execXor (x y : RegIdx) (s : State) : Host.Outcome State Fault Refusal :=
  .next (s.setReg x (s.reg x ^^^ s.reg y)).advance

/-- ADD Vx, Vy, R146: VF the carry, then `V[x] <- s mod 256`. -/
def execAddVxVy (x y : RegIdx) (s : State) : Host.Outcome State Fault Refusal :=
  .next (s.setFlagged (carryOut (s.reg x) (s.reg y)) x (s.reg x + s.reg y)).advance

/-- SUB Vx, Vy, R147: VF = (vx > vy), then `V[x] <- (vx - vy) mod 256`. -/
def execSub (x y : RegIdx) (s : State) : Host.Outcome State Fault Refusal :=
  .next (s.setFlagged (noBorrow (s.reg x) (s.reg y)) x (s.reg x - s.reg y)).advance

/-- SHR Vx, Vy, R148: VF = bit 0 of vx, then `V[x] <- vx >> 1`; y is encoded but not read. -/
def execShr (x _y : RegIdx) (s : State) : Host.Outcome State Fault Refusal :=
  .next (s.setFlagged (shiftedOutLow (s.reg x)) x (s.reg x >>> 1)).advance

/-- SUBN Vx, Vy, R149: VF = (vy > vx), then `V[x] <- (vy - vx) mod 256`. -/
def execSubn (x y : RegIdx) (s : State) : Host.Outcome State Fault Refusal :=
  .next (s.setFlagged (noBorrow (s.reg y) (s.reg x)) x (s.reg y - s.reg x)).advance

/-- SHL Vx, Vy, R150: VF = bit 7 of vx, then `V[x] <- (vx << 1) mod 256`; y is encoded but not read. -/
def execShl (x _y : RegIdx) (s : State) : Host.Outcome State Fault Refusal :=
  .next (s.setFlagged (shiftedOutHigh (s.reg x)) x (s.reg x <<< 1)).advance

/-- RND Vx, kk, R151: `V[x] <- RND & kk`, RND sampled by this step. -/
def execRnd (x : RegIdx) (kk : Byte) (s : State) : Host.Outcome State Fault Refusal :=
  .next ((s.setEnv s.env.afterSample).setReg x (s.rndByte &&& kk)).advance

end Sys2Proof.Machine
end

