-- ==== Sys2Proof/Machine/ControlFlow.lean ====
section
/-! DEFINITION. Jumps, calls and returns (spec/41_control_flow.md R120 to R124). -/

namespace Sys2Proof.Machine

/-- RET, R120: `if SP = 0 then raise Fault(STACK_UNDERFLOW); t <- STACK[SP]; SP <- SP - 1; pc <- t + 2`. -/
def execRet (s : State) : Host.Outcome State Fault Refusal :=
  if s.sp = 0 then .next (s.raiseFault .stackUnderflow (s.sp.setWidth 17))
  else .next ((s.setSp (s.sp - 1)).setPc (s.stackAt s.sp + 2))

/-- JP nnn, R121: `pc <- zext_16(nnn)`. -/
def execJp (nnn : Addr) (s : State) : Host.Outcome State Fault Refusal :=
  .next (s.setPc (zextAddr nnn))

/-- CALL nnn, R122: `if SP = 15 then raise Fault(STACK_OVERFLOW); SP <- SP + 1; STACK[SP] <- pc;
pc <- zext_16(nnn)`; the value pushed is the address of the CALL itself. -/
def execCall (nnn : Addr) (s : State) : Host.Outcome State Fault Refusal :=
  if s.sp = 15 then .next (s.raiseFault .stackOverflow (s.sp.setWidth 17))
  else .next ((s.push s.pc).setPc (zextAddr nnn))

/-- JP V0, nnn, R123: `pc <- zext_16(nnn) + zext_16(v0)`, not masked to 12 bits. -/
def execJpV0 (nnn : Addr) (s : State) : Host.Outcome State Fault Refusal :=
  .next (s.setPc (zextAddr nnn + zextByte (s.reg 0)))

end Sys2Proof.Machine
end

