-- ==== Sys2Proof/Machine/Display.lean ====
section
/-! DEFINITION. The framebuffer instructions and the draw algorithm (spec/45_display.md R170 to R173). -/

namespace Sys2Proof.Machine

/-- What a draw works on: the framebuffer and whether a pixel has gone from on to off. -/
structure Canvas where
  fb : Vector (Vector Bool 32) 64
  hit : Bool
  deriving DecidableEq, Repr

/-- `FB[tx][ty] <- FB[tx][ty] ^ 1; if FB[tx][ty] = 0 then V[F] <- 1` (R171). -/
def Canvas.toggle (p : Canvas) (tx : Fin 64) (ty : Fin 32) : Canvas :=
  let after := !((p.fb[tx.val])[ty.val])
  ⟨p.fb.set tx.val ((p.fb[tx.val]).set ty.val after), p.hit || !after⟩

/-- `tx <- (vx + c) mod 64` (R171). -/
def drawCol (vx : Byte) (c : Nat) : Fin 64 := ⟨(vx.toNat + c) % 64, Nat.mod_lt _ (by decide)⟩

/-- `ty <- (vy + r) mod 32` (R171). -/
def drawLine (vy : Byte) (r : Nat) : Fin 32 := ⟨(vy.toNat + r) % 32, Nat.mod_lt _ (by decide)⟩

/-- Columns 0 to n - 1 of one row whose sprite byte is b (R171). -/
def drawCols (b vx : Byte) (ty : Fin 32) : Nat → Canvas → Canvas
  | 0, p => p
  | c + 1, p =>
    if spriteBit b c then (drawCols b vx ty c p).toggle (drawCol vx c) ty
    else drawCols b vx ty c p

/-- Rows 0 to n - 1 of the sprite (R171). -/
def drawRows (sprite : Nat → Byte) (vx vy : Byte) : Nat → Canvas → Canvas
  | 0, p => p
  | r + 1, p => drawCols (sprite r) vx (drawLine vy r) 8 (drawRows sprite vx vy r p)

/-- CLS, R170: every pixel to 0, disp_clear pulses. -/
def execCls (s : State) : Host.Outcome State Fault Refusal :=
  .next ((s.setFb (Vector.replicate 64 (Vector.replicate 32 false))).setOut
    { s.out with dispClear := true }).advance

/-- DRW Vx, Vy, n, R171 to R173: the check of all n rows, then the rows at the coordinates read before VF is
written, then VF the collision flag; frame_ready pulses.  With n = 0 no memory is read (R172). -/
def execDrw (x y : RegIdx) (n : Nat) (s : State) : Host.Outcome State Fault Refusal :=
  if s.blockInBounds n then
    let drawn := drawRows s.dataByte (s.reg x) (s.reg y) n ⟨s.fb, false⟩
    .next (((s.setFb drawn.fb).setReg regF (flagByte drawn.hit)).setOut
      { s.out with frameReady := true }).advance
  else .next (s.raiseFault .memBounds s.memBoundsInfo)

end Sys2Proof.Machine
end

