-- ==== Sys2Proof/Machine/IndexMemory.lean ====
section
/-! DEFINITION. The index register and memory transfers (spec/44_index_memory.md R160 to R166). -/

namespace Sys2Proof.Machine

/-- LD I, nnn, R160: `I <- zext_16(nnn)`. -/
def execLdI (nnn : Addr) (s : State) : Host.Outcome State Fault Refusal :=
  .next (s.setI (zextAddr nnn)).advance

/-- ADD I, Vx, R161: `I <- (I + zext_16(vx)) mod 65536`, no flag. -/
def execAddIVx (x : RegIdx) (s : State) : Host.Outcome State Fault Refusal :=
  .next (s.setI (s.i + zextByte (s.reg x))).advance

/-- LD F, Vx, R162: `I <- zext_16(vx) * 5`, the full byte. -/
def execLdFVx (x : RegIdx) (s : State) : Host.Outcome State Fault Refusal :=
  .next (s.setI (zextByte (s.reg x) * 5)).advance

/-- LD B, Vx, R163: the three decimal digits of vx to I, I + 1, I + 2, after the check of all three. -/
def execLdBVx (x : RegIdx) (s : State) : Host.Outcome State Fault Refusal :=
  if s.blockInBounds 3 then
    .next (State.writeBytes (bcdDigit (s.reg x)) (s.dataAddr 0) 3 s).advance
  else .next (s.raiseFault .memBounds s.memBoundsInfo)

/-- LD [I], Vx, R164: V[0] to V[x] to I to I + x, after the check of all of them; I is not changed. -/
def execLdMemVx (x : RegIdx) (s : State) : Host.Outcome State Fault Refusal :=
  if s.blockInBounds (x.val + 1) then
    .next (State.writeBytes (fun k => s.reg (regIdx k)) (s.dataAddr 0) (x.val + 1) s).advance
  else .next (s.raiseFault .memBounds s.memBoundsInfo)

/-- LD Vx, [I], R165: V[0] to V[x] from I to I + x, after the check of all of them; I is not changed. -/
def execLdVxMem (x : RegIdx) (s : State) : Host.Outcome State Fault Refusal :=
  if s.blockInBounds (x.val + 1) then
    .next (State.setRegs s.dataByte (x.val + 1) s).advance
  else .next (s.raiseFault .memBounds s.memBoundsInfo)

end Sys2Proof.Machine
end

