-- ==== Sys2Proof/Machine/Skip.lean ====
section
/-! DEFINITION. The conditional skips (spec/42_skip.md R130 to R136). -/

namespace Sys2Proof.Machine

/-- SE Vx, kk, R130: skip when `vx = kk`. -/
def execSeVxKk (x : RegIdx) (kk : Byte) (s : State) : Host.Outcome State Fault Refusal :=
  .next (s.skipIf (s.reg x == kk))

/-- SNE Vx, kk, R131: skip when `vx != kk`. -/
def execSneVxKk (x : RegIdx) (kk : Byte) (s : State) : Host.Outcome State Fault Refusal :=
  .next (s.skipIf (s.reg x != kk))

/-- SE Vx, Vy, R132: skip when `vx = vy`. -/
def execSeVxVy (x y : RegIdx) (s : State) : Host.Outcome State Fault Refusal :=
  .next (s.skipIf (s.reg x == s.reg y))

/-- SNE Vx, Vy, R133: skip when `vx != vy`. -/
def execSneVxVy (x y : RegIdx) (s : State) : Host.Outcome State Fault Refusal :=
  .next (s.skipIf (s.reg x != s.reg y))

/-- SKP Vx, R134: skip when the key is pressed; a key index above 0xF raises KEY_RANGE, with V[x] as its
information, under the FAULT policy. -/
def execSkp (x : RegIdx) (s : State) : Host.Outcome State Fault Refusal :=
  match s.keyIndex (s.reg x) with
  | none => .next (s.raiseFault .keyRange ((s.reg x).setWidth 17))
  | some k => .next (s.skipIf (s.keyDown k))

/-- SKNP Vx, R135: skip when the key is not pressed; the index as for SKP. -/
def execSknp (x : RegIdx) (s : State) : Host.Outcome State Fault Refusal :=
  match s.keyIndex (s.reg x) with
  | none => .next (s.raiseFault .keyRange ((s.reg x).setWidth 17))
  | some k => .next (s.skipIf (!s.keyDown k))

end Sys2Proof.Machine
end

