-- ==== Sys2Proof/Machine/TimerInput.lean ====
section
/-! DEFINITION. The timer and key-wait instructions (spec/46_timer_input.md R180 to R183). -/

namespace Sys2Proof.Machine

/-- LD Vx, DT, R180: `V[x] <- DT`. -/
def execLdVxDt (x : RegIdx) (s : State) : Host.Outcome State Fault Refusal :=
  .next (s.setReg x s.dt).advance

/-- LD Vx, K, R181, the issue: `mode <- WAIT_KEY(x)`, pc kept; the resume is `State.keyEdgeStep`. -/
def execLdVxK (x : RegIdx) (s : State) : Host.Outcome State Fault Refusal :=
  .next (s.suspend x)

/-- LD DT, Vx, R182: `DT <- vx`. -/
def execLdDtVx (x : RegIdx) (s : State) : Host.Outcome State Fault Refusal :=
  .next (s.setDt (s.reg x)).advance

/-- LD ST, Vx, R183: `ST <- vx`. -/
def execLdStVx (x : RegIdx) (s : State) : Host.Outcome State Fault Refusal :=
  .next (s.setSt (s.reg x)).advance

end Sys2Proof.Machine
end

