-- ==== Sys2Proof/Machine/Events.lean ====
section
/-! DEFINITION. The steps of the core that run no instruction: tick, clock cycle, key edge, reset, start and
load (spec/40_pipeline.md R110; spec/60_exceptions.md R210 to R216; spec/70_reset_and_hazards.md R230 to
R233). -/

namespace Sys2Proof.Machine

/-- A timer's decrement: it stays at 0 (60_exceptions.md R211). -/
def countDown (b : Byte) : Byte := if b = 0 then 0 else b - 1

/-- The tick step, in every mode (R211, R212). -/
def State.tickStep (s : State) : State :=
  ((s.setDt (countDown s.dt)).setSt (countDown s.st)).setIpfCnt 0

/-- One cycle of the core clock with ratio d: the cycle at d - 1 makes a tick (R215). -/
def State.clockStep (d : Nat) (s : State) : State :=
  if s.divCnt = d - 1 then s.tickStep.setDivCnt 0 else s.setDivCnt (s.divCnt + 1)

/-- The resume of the key wait: `V[wx] <- k; pc <- pc + 2; mode <- RUN` (46_timer_input.md R181); in any other
mode the edge is ignored, not latched (60_exceptions.md R220). -/
def State.keyEdgeStep (k : Key) (s : State) : State :=
  match s.mode with
  | .waitKey => ((s.setReg s.wx (BitVec.ofNat 8 k.val)).advance).setMode .run
  | .idle | .run | .halted => s

/-- Reset: every piece of the core's state to its value of 10_state.md R40, in one step, in any mode
(70_reset_and_hazards.md R230); the parameters and the environment are not the core's. -/
def State.resetStep (s : State) : State := State.afterReset s.params s.env

/-- Start: IDLE to RUN, and enabled only in IDLE (R232). -/
def State.startStep (s : State) : Host.Outcome State Fault Refusal :=
  match s.mode with
  | .idle => .next (s.setMode .run)
  | .run | .waitKey | .halted => .refused .startOutsideIdle

/-- The host's load, enabled only in IDLE: `MEM[0x200 + i] <- b[i]`, or LOAD_TOO_LARGE and memory unchanged
when the ROM is longer than 3584 bytes (R233). -/
def State.loadStep (rom : List Byte) (s : State) : Host.Outcome State Fault Refusal :=
  match s.mode with
  | .idle =>
    if rom.length ≤ maxRom then
      .next ((State.writeBytes (fun i => rom.getD i 0) progBase rom.length s).setOut
        { s.out with loadResult := some .success })
    else .next (s.setOut { s.out with loadResult := some .tooLarge })
  | .run | .waitKey | .halted => .refused .loadOutsideIdle

/-- The tick strobe, present when the divider is outside the block (60_exceptions.md R210, R222). -/
def State.tickStrobe (s : State) : Host.Outcome State Fault Refusal :=
  match s.params.divider with
  | none => .next s.tickStep
  | some _ => .refused .tickStrobeWithDivider

/-- A cycle of the core clock, counted when the divider is inside the block (R215; 10_state.md R37). -/
def State.clockCycle (s : State) : Host.Outcome State Fault Refusal :=
  match s.params.divider with
  | none => .refused .clockWithoutDivider
  | some d => .next (s.clockStep d)

/-- What the timer driver does next by itself: the strobe, or a clock cycle. -/
def State.passTime (s : State) : State :=
  match s.params.divider with
  | none => s.tickStep
  | some d => s.clockStep d

/-- Whether the timer driver's next beat makes a tick: every strobe does, and of the divider's cycles the one at
d - 1 (60_exceptions.md R210, R215). -/
def State.tickDue (s : State) : Bool :=
  match s.params.divider with
  | none => true
  | some d => decide (s.divCnt = d - 1)

/-- The timer driver's part of one cycle: a strobe if one arrives, or with the divider inside the clock cycle
itself, which makes a tick when one is due (60_exceptions.md R210, R215). -/
def timerBeat (divider : Option Nat) (strobe : Bool) : List Event :=
  match divider with
  | none => if strobe then [.tick] else []
  | some _ => [.clock]

/-- Several events in one cycle, in the order of 60_exceptions.md R216: reset, then tick, then key edge, then
instruction steps.  With the divider inside, the clock cycle stands in the tick's place (log 13), and R215 leaves
open how many instruction steps fit in a cycle. -/
def sameCycle (divider : Option Nat) (rst strobe : Bool) (edge : Option Key) (instrs : Nat) : List Event :=
  (if rst then [.reset] else []) ++ timerBeat divider strobe
    ++ (match edge with | some k => [.keyEdge k] | none => []) ++ List.replicate instrs .instr

end Sys2Proof.Machine
end

