-- ==== Sys2Proof/Machine/Ports.lean ====
section
/-! DEFINITION. The output ports that are functions of the state (spec/60_exceptions.md R218, R221, R222);
`fb_pixel` is `State.pixel`, the strobes are `State.out`. -/

namespace Sys2Proof.Machine

/-- `tone = (ST > 0)` (R218). -/
def State.tone (s : State) : Bool := decide (s.st.toNat > 0)

/-- `halted` (R202). -/
def State.haltedPort (s : State) : Bool := s.mode == .halted

/-- `fault_code` (R202). -/
def State.faultCodePort (s : State) : BitVec 3 := s.fault.code

/-- `fault_info` (R222). -/
def State.faultInfoPort (s : State) : BitVec 17 := s.faultInfo

/-- `waiting = (mode = WAIT_KEY)` (46_timer_input.md R181). -/
def State.waitingPort (s : State) : Bool := s.mode == .waitKey

/-- `status_pc` (R202). -/
def State.statusPc (s : State) : Word := s.pc

/-- `unk_valid`, `unk_word`, `unk_pc` (R203). -/
def State.unkValid (s : State) : Bool := s.out.unk.isSome

end Sys2Proof.Machine
end

