-- ==== Sys2Proof/Machine/Schedule.lean ====
section
/-! DEFINITION. The instruction step (spec/40_pipeline.md R100 to R109), which step the core takes next
(R110), and how an instruction word is placed for the host. -/

namespace Sys2Proof.Machine

/-! ### Fetch (R101, R102) -/

/-- Whether both bytes of the fetch at pc pass their check: pc at most 0xFFE under FAULT (R102). -/
def State.fetchInBounds (s : State) : Bool := s.inBounds s.pc.toNat && s.inBounds (s.pc.toNat + 1)

/-- `word = MemRead(pc, 1) : MemRead(pc + 1, 1)`, the address pc + 1 exact (R101; 20_memory.md R54). -/
def State.fetchWord (s : State) : Word :=
  wordOfBytes (s.readByte s.pc.toNat) (s.readByte (s.pc.toNat + 1))

/-! ### The instruction step -/

/-- An instruction step is enabled exactly when `mode = RUN and ipf_cnt < IPF` (R100). -/
def State.canRun (s : State) : Bool := (s.mode == .run) && decide (s.ipfCnt < s.params.ipf)

/-- Every instruction step counts, whatever it decodes to (R104). -/
def State.countStep (s : State) : State := s.setIpfCnt (s.ipfCnt + 1)

/-- The unknown opcode: the report with the word and the pc, and pc kept or advanced by 2
(`UNKNOWN_PC_ADVANCE`; R106; 60_exceptions.md R203). -/
def State.reportUnknown (w : Word) (s : State) : State :=
  let told := s.setOut { s.out with unk := some (w, s.pc) }
  if s.params.unknownPcAdvance then told.advance else told

/-- The instruction step once it is enabled: count, fetch or FETCH_BOUNDS with pc as its information, decode
or report, execute (R109; 60_exceptions.md R205). -/
def instructionStep (s : State) : Host.Outcome State Fault Refusal :=
  let s := s.countStep
  if s.fetchInBounds then
    match decode s.params.decodeLenient s.fetchWord with
    | .ok i => exec i s
    | .error _ => .next (s.reportUnknown s.fetchWord)
  else .next (s.raiseFault .fetchBounds (s.pc.setWidth 17))

/-! ### The next step (R110; logs 5, 6, 7) -/

/-- One entry of the agenda.  An instruction step that is not enabled does not occur
(95_test_vectors.md V-F10); a key edge outside WAIT_KEY is ignored (60_exceptions.md R220). -/
def takeEvent (e : Event) (s : State) : Host.Outcome State Fault Refusal :=
  match e with
  | .instr => if s.canRun then instructionStep s else .next s
  | .tick => s.tickStrobe
  | .clock => s.clockCycle
  | .keyEdge k => .next (s.keyEdgeStep k)
  | .keys levels => .next (s.setEnv { s.env with key := levels })
  | .reset => .next s.resetStep
  | .start => s.startStep
  | .load rom => s.loadStep rom

/-- What is left once the first entry of the agenda is taken; the strobes of the step before are over. -/
def State.beginStep (s : State) : State :=
  (s.setOut Signals.quiet).setEnv { s.env with agenda := s.env.agenda.tail }

/-- One step of the machine: the first entry of the agenda; with an empty agenda an instruction step if one is
enabled, and otherwise time passes (DESIGN CHOICE, log 6). -/
def nextStep (s : State) : Host.Outcome State Fault Refusal :=
  match s.env.agenda with
  | e :: _ => takeEvent e s.beginStep
  | [] => if s.canRun then instructionStep s.beginStep else .next s.beginStep.passTime

/-! ### Placing a word for the next instruction step (log 14) -/

/-- s with the word of nbits bits, w, stored at pc, high byte first, and made ready so that the very next
step runs it: RUN, a budget that is not used up, and an instruction step as the next entry of the
agenda.  A pc that cannot be fetched from (above 0xFFE under FAULT) is set to 0x200. -/
def State.placeWord (nbits w : Nat) (s : State) : State :=
  let word : Word := BitVec.ofNat 16 (w % 2 ^ nbits)
  let s := if s.fetchInBounds then s else s.setPc 0x0200
  let s := State.writeBytes (fun k => if k = 0 then word.extractLsb' 8 8 else word.extractLsb' 0 8)
    s.pc.toNat 2 s
  let s := if s.ipfCnt < s.params.ipf then s else s.setIpfCnt 0
  (s.setMode .run).setEnv { s.env with agenda := .instr :: s.env.agenda }

end Sys2Proof.Machine
end

