-- ==== Sys2Proof/Machine/Step.lean ====
section
/-! DEFINITION. The host's step, and the placing of a word where the next step fetches it; both call
Machine/Schedule.lean. -/

namespace Sys2Proof.Machine

/-- One step of the machine. -/
def step (s : State) : Host.Outcome State Fault Refusal := Sys2Proof.Machine.nextStep s

/-- s with the instruction w of nbits bits where the next step fetches and runs it (log 14). -/
def State.withFetchWord (s : State) (nbits w : Nat) : State := State.placeWord nbits w s

end Sys2Proof.Machine
end

