-- ==== Sys2Proof/Safety.lean ====
section
/-! DEFINITION. The terms claims use: what a safe run is, the invariants, what may change and what may not, and
what it means that an instruction completes. -/

namespace Sys2Proof.Machine

/-! ### Safe runs -/

/-- A state is safe when the core has raised no fault (spec/60_exceptions.md R201: a fault is fatal and
sticky). -/
def State.Safe (s : State) : Prop := s.fault = .none

/-! ### What an operation leaves unchanged -/

/-- The parts of the state, one for each piece that spec/10_state.md names and one for each of the model's own
fields. -/
inductive Part where
  | regs | index | pc | stack | sp | mem | fb | dt | st | mode | wx | fault | ipfCnt | divCnt
  | params | agenda | keyLevels | rnd | strobes
  deriving DecidableEq, Repr

/-- That a part is the same in two states; for the registers, the stack, memory and the framebuffer, that every
read of it gives the same. -/
def Part.same (p : Part) (s t : State) : Prop :=
  match p with
  | .regs => ∀ x, t.reg x = s.reg x
  | .index => t.i = s.i
  | .pc => t.pc = s.pc
  | .stack => ∀ j, t.stackAt j = s.stackAt j
  | .sp => t.sp = s.sp
  | .mem => ∀ a, t.readByte a = s.readByte a
  | .fb => ∀ c r, t.pixel c r = s.pixel c r
  | .dt => t.dt = s.dt
  | .st => t.st = s.st
  | .mode => t.mode = s.mode
  | .wx => t.wx = s.wx
  | .fault => t.fault = s.fault ∧ t.faultInfo = s.faultInfo
  | .ipfCnt => t.ipfCnt = s.ipfCnt
  | .divCnt => t.divCnt = s.divCnt
  | .params => t.params = s.params
  | .agenda => t.env.agenda = s.env.agenda
  | .keyLevels => t.env.key = s.env.key
  | .rnd => t.env.rndFeed = s.env.rndFeed ∧ t.env.rndCount = s.env.rndCount
  | .strobes => t.out = s.out

/-- Every part outside the list is unchanged. -/
def ChangesOnly (ps : List Part) (s t : State) : Prop := ∀ p : Part, p ∉ ps → p.same s t

/-- V[x] takes the value, every other register is kept, pc advances by 2, and nothing else changes. -/
def RegResult (x : RegIdx) (value : Byte) (s t : State) : Prop :=
  t.reg x = value ∧ (∀ z, z ≠ x → t.reg z = s.reg z) ∧ t.pc = s.pc + 2 ∧ ChangesOnly [.regs, .pc] s t

/-- pc advances by 4 when c holds and by 2 when it does not, and nothing else changes; a skip from 0xFFC or above
leaves the address space, which the next fetch refuses under FAULT (spec/42_skip.md R130; pc wraps at 16
bits). -/
def SkipResult (c : Prop) (s t : State) : Prop :=
  (c → t.pc = s.pc + 4) ∧ (¬ c → t.pc = s.pc + 2) ∧ ChangesOnly [.pc] s t ∧
  (c → 0xFFC ≤ s.pc.toNat → s.pc.toNat < 0xFFFC →
    0x1000 ≤ t.pc.toNat ∧ (t.fetchInBounds = true ↔ s.params.memOob = .wrap))

/-- The core halts with this fault and this information, and nothing else changes
(spec/60_exceptions.md R201). -/
def FaultResult (code : FaultCode) (info : Nat) (s t : State) : Prop :=
  t.mode = .halted ∧ t.fault = code ∧ t.faultInfo.toNat = info ∧ ChangesOnly [.mode, .fault] s t

/-! ### Completion and encoding -/

/-- The instruction answers a next state, and it has the property. -/
def Completes (i : Instr) (s : State) (post : State → Prop) : Prop :=
  ∃ t, exec i s = .next t ∧ post t

/-- Under both settings of DECODE_LENIENT, every word of the row decodes to the instruction with the word's
fields (spec/30_encoding.md R76). -/
def RowDecodes (mask lenientMask mtch : Word) (i : Word → Instr) : Prop :=
  ∀ w, (w &&& mask = mtch → decode false w = .ok (i w)) ∧
    (w &&& lenientMask = mtch → decode true w = .ok (i w))

/-! ### When accesses are in bounds, in the spec's words -/

/-- The data accesses at I to I + n - 1 all pass: `MEM_OOB_POLICY` is WRAP, or n = 0, or I + n - 1 is at most
0xFFF (spec/20_memory.md R55). -/
def State.BlockFits (s : State) (n : Nat) : Prop :=
  s.params.memOob = .wrap ∨ n = 0 ∨ s.i.toNat + n ≤ 0x1000

/-- The fetch at pc passes: WRAP, or pc at most 0xFFE (spec/40_pipeline.md R102). -/
def State.FetchFits (s : State) : Prop := s.params.memOob = .wrap ∨ s.pc.toNat ≤ 0xFFE

/-- An instruction step is enabled (spec/40_pipeline.md R100). -/
def State.Enabled (s : State) : Prop := s.mode = .run ∧ s.ipfCnt < s.params.ipf

/-- The step to come is an instruction step, if one is enabled: the environment lets one happen, or it asks for
nothing, where an enabled step occurs by the model's choice (log 6). -/
def State.InstrNext (s : State) : Prop := s.env.agenda = [] ∨ ∃ rest, s.env.agenda = .instr :: rest

/-- Whether the sprite of height n at I, drawn at (V[x], V[y]), has its bit for pixel (c, r) set: row
(r - V[y]) mod 32, column (c - V[x]) mod 64, the leftmost pixel in bit 7 (spec/45_display.md R171). -/
def State.spriteAt (s : State) (x y : RegIdx) (n : Nat) (c : Fin 64) (r : Fin 32) : Bool :=
  let col := (c.val + 64 - (s.reg x).toNat % 64) % 64
  let row := (r.val + 32 - (s.reg y).toNat % 32) % 32
  decide (col < 8) && decide (row < n) && (s.readByte (s.i.toNat + row)).getLsbD (7 - col)

/-- The general registers an instruction may write (spec/10_state.md R21, R23). -/
def instrWrites : Instr → List RegIdx
  | .cls | .ret | .jp _ | .call _ | .ldI _ | .jpV0 _ => []
  | .seVxKk _ _ | .sneVxKk _ _ | .seVxVy _ _ | .sneVxVy _ _ | .skp _ | .sknp _ => []
  | .ldVxKk x _ | .addVxKk x _ | .ldVxVy x _ | .or x _ | .and x _ | .xor x _ | .rnd x _ | .ldVxDt x => [x]
  | .addVxVy x _ | .sub x _ | .shr x _ | .subn x _ | .shl x _ => [regF, x]
  | .drw _ _ _ => [regF]
  | .ldVxK _ | .ldDtVx _ | .ldStVx _ | .addIVx _ | .ldFVx _ | .ldBVx _ | .ldMemVx _ => []
  | .ldVxMem x => (List.finRange 16).filter fun k => decide (k ≤ x)

/-! ### Invariants -/

/-- What every step keeps.  Memory is in canonical form; the budget counter stays within IPF, which is at least
1 (R36); the divider counter stays below DIV and is 0 without a divider (R37); the core is HALTED exactly when
a fault is recorded, and only a fault of 60_exceptions.md R201 is (R35); STACK[0] is never written by a call
(R27). -/
structure State.Inv (s : State) : Prop where
  memCanonical : Memory.wf s.params s.mem = true
  budgetPositive : 1 ≤ s.params.ipf
  budgetKept : s.ipfCnt ≤ s.params.ipf
  dividerAbsent : s.params.divider = none → s.divCnt = 0
  dividerBelow : ∀ d, s.params.divider = some d → s.divCnt < d
  haltedIffFault : s.mode = .halted ↔ s.fault ≠ .none
  infoClear : s.fault = .none → s.faultInfo = 0
  faultKind : s.fault ≠ .unknownOpcode ∧ s.fault ≠ .loadTooLarge
  stackBase : s.stackAt 0 = 0

/-- Before start the core's registers, pc, stack, timers and framebuffer are as reset leaves them
(spec/70_reset_and_hazards.md R232, R234). -/
def State.IdleIsReset (s : State) : Prop :=
  s.mode = .idle →
    (∀ x, s.reg x = 0) ∧ s.i = 0 ∧ s.pc = 0x0200 ∧ (∀ j, s.stackAt j = 0) ∧ s.sp = 0 ∧
    s.dt = 0 ∧ s.st = 0 ∧ (∀ c r, s.pixel c r = false) ∧ s.fault = .none ∧ s.ipfCnt = 0

/-! ### Runs -/

/-- Whether the step from s is an instruction step. -/
def State.takesInstruction (s : State) : Bool :=
  s.canRun && (match s.env.agenda with | [] => true | .instr :: _ => true | _ => false)

/-- Whether the step from s clears the budget: a tick strobe, a clock cycle at which a tick is due, or a reset,
asked for by the environment, or with an empty agenda and no instruction enabled a tick that the timer driver
makes (spec/60_exceptions.md R211, R215). -/
def State.mayClearBudget (s : State) : Bool :=
  match s.env.agenda with
  | [] => !s.canRun && s.tickDue
  | .tick :: _ | .reset :: _ => true
  | .clock :: _ => s.tickDue
  | _ => false

/-- How many of the first k steps from s are instruction steps, as far as the run goes. -/
def instructionSteps : Nat → State → Nat
  | 0, _ => 0
  | k + 1, s =>
    (if s.takesInstruction then 1 else 0)
      + (match step s with | .next t => instructionSteps k t | .fault _ => 0 | .refused _ => 0)

/-- No step of the first k from s can clear the budget. -/
def noTickWithin : Nat → State → Bool
  | 0, _ => true
  | k + 1, s =>
    !s.mayClearBudget
      && (match step s with | .next t => noTickWithin k t | .fault _ => true | .refused _ => true)

/-- The outcome with its next state changed by f. -/
def mapNext (f : State → State) : Host.Outcome State Fault Refusal → Host.Outcome State Fault Refusal
  | .next t => .next (f t)
  | .fault r => .fault r
  | .refused r => .refused r

end Sys2Proof.Machine
end

