-- ==== Sys2Proof/Certificates/Slice0/Obligations.lean ====
section
/-! DEFINITION. The statements for the provers.  Where a statement rests on a decision the spec marks as its
own, or on a choice of this model, its docstring says so.  In every statement about steps the agenda (log 5), the
strobes of the last step (log 10) and the parameters (log 1) are the model's own fields. -/

open Sys2Proof Sys2Proof.Machine

/-! ## Encoding -/

/-- Words written out from 30_encoding.md R72 and R76 decode to the instructions they stand for. -/
def Obligations.SampleWordsDecode : Prop :=
  decodeTableWord 16 0b0001_0010_0010_1000 = some (.jp 0x228) ∧
  decodeTableWord 16 0b0011_0011_0100_0010 = some (.seVxKk 3 0x42) ∧
  decodeTableWord 16 0b1000_0100_0111_0110 = some (.shr 4 7) ∧
  decodeTableWord 16 0b1101_0000_0001_0101 = some (.drw 0 1 5) ∧
  decodeTableWord 16 0b1111_0010_0000_1010 = some (.ldVxK 2) ∧
  decodeTableWord 16 0b1111_0001_0101_0101 = some (.ldMemVx 1) ∧
  decodeTableWord 16 0b0000_0001_1110_0000 = none

/-- Decoding the encoding of a well-formed instruction gives it back, under both settings of DECODE_LENIENT. -/
def Obligations.DecodeEncodeRoundTrip : Prop :=
  ∀ (lenient : Bool) (i : Instr), i.wellFormed = true → decode lenient (encode i) = .ok i

/-- What the strict decoder accepts is well formed and encodes back to the same word: no two words mean one
instruction. -/
def Obligations.StrictDecodeIsInjective : Prop :=
  ∀ (w : Word) (i : Instr), decode false w = .ok i → i.wellFormed = true ∧ encode i = w

/-- 30_encoding.md R76: w is the instruction of a row exactly when `w & mask = match`, with the masks in force
under DECODE_LENIENT, and every instruction's row is one of the 34. -/
def Obligations.DecoderFollowsOpcodeTable : Prop :=
  (∀ (lenient : Bool) (w : Word) (row : OpRow), row ∈ opcodeTable →
    (row.covers lenient w ↔ ∃ i, decode lenient w = .ok i ∧ i.row = row)) ∧
  (∀ i : Instr, i.row ∈ opcodeTable) ∧ opcodeTable.length = 34

/-- The masks are mutually exclusive under either setting of DECODE_LENIENT (30_encoding.md R76, a clause the
spec marks as derived). -/
def Obligations.OpcodeRowsExclusive : Prop :=
  ∀ (lenient : Bool) (w : Word) (r₁ r₂ : OpRow), r₁ ∈ opcodeTable → r₂ ∈ opcodeTable →
    r₁.covers lenient w → r₂.covers lenient w → r₁ = r₂

/-- The unknown-opcode space of the strict decoder, family by family (30_encoding.md R78, which the spec marks as
derived), and the words the lenient decoder takes from it. -/
def Obligations.UnknownOpcodeSpace : Prop :=
  (∀ w : Word, decode false w = .error (.unknownOpcode w) ↔
    (fieldOp w = 0x0 ∧ w ≠ 0x00E0#16 ∧ w ≠ 0x00EE#16) ∨
    (fieldOp w = 0x5 ∧ fieldN w ≠ 0) ∨
    (fieldOp w = 0x8 ∧ fieldN w ∈ [0x8, 0x9, 0xA, 0xB, 0xC, 0xD, 0xF]) ∨
    (fieldOp w = 0x9 ∧ fieldN w ≠ 0) ∨
    (fieldOp w = 0xE ∧ (fieldKk w).toNat ∉ [0x9E, 0xA1]) ∨
    (fieldOp w = 0xF ∧
      (fieldKk w).toNat ∉ [0x07, 0x0A, 0x15, 0x18, 0x1E, 0x29, 0x33, 0x55, 0x65])) ∧
  (∀ w : Word, (∃ i, decode false w = .ok i) ∨ decode false w = .error (.unknownOpcode w)) ∧
  (∀ w : Word, decode true w = .error (.unknownOpcode w) ↔
    decode false w = .error (.unknownOpcode w) ∧ fieldOp w ≠ 0x5 ∧ fieldOp w ≠ 0x9 ∧
    ¬ (fieldOp w = 0x0 ∧ (fieldKk w).toNat ∈ [0xE0, 0xEE]))

/-- 30_encoding.md R71, R73: the fields are the bits the rules name, as numbers. -/
def Obligations.FieldsAreTheNamedBits : Prop :=
  ∀ w : Word,
    fieldOp w = w.toNat / 4096 ∧ (fieldX w).val = w.toNat / 256 % 16 ∧
    (fieldY w).val = w.toNat / 16 % 16 ∧ fieldN w = w.toNat % 16 ∧
    (fieldKk w).toNat = w.toNat % 256 ∧ (fieldNnn w).toNat = w.toNat % 4096 ∧
    (zextAddr (fieldNnn w)).toNat = w.toNat % 4096

/-! ## Register loads and the ALU -/

/-- LD Vx, kk, ADD Vx, kk and LD Vx, Vy (43_alu.md R140, R141, R142). -/
def Obligations.RegisterLoadsAndAddImmediate : Prop :=
  RowDecodes 0xF000 0xF000 0x6000 (fun w => .ldVxKk (fieldX w) (fieldKk w)) ∧
  RowDecodes 0xF000 0xF000 0x7000 (fun w => .addVxKk (fieldX w) (fieldKk w)) ∧
  RowDecodes 0xF00F 0xF00F 0x8000 (fun w => .ldVxVy (fieldX w) (fieldY w)) ∧
  ∀ (s : State) (x y : RegIdx) (kk : Byte),
    Completes (.ldVxKk x kk) s (RegResult x kk s) ∧
    Completes (.addVxKk x kk) s
      (RegResult x (BitVec.ofNat 8 (((s.reg x).toNat + kk.toNat) % 256)) s) ∧
    Completes (.ldVxVy x y) s (RegResult x (s.reg y) s)

/-- OR, AND and XOR, bit by bit; VF is not cleared (43_alu.md R143, R144, R145). -/
def Obligations.LogicOperations : Prop :=
  RowDecodes 0xF00F 0xF00F 0x8001 (fun w => .or (fieldX w) (fieldY w)) ∧
  RowDecodes 0xF00F 0xF00F 0x8002 (fun w => .and (fieldX w) (fieldY w)) ∧
  RowDecodes 0xF00F 0xF00F 0x8003 (fun w => .xor (fieldX w) (fieldY w)) ∧
  ∀ (s : State) (x y : RegIdx),
    Completes (.or x y) s (fun t => RegResult x (t.reg x) s t ∧
      ∀ b, (t.reg x).getLsbD b = ((s.reg x).getLsbD b || (s.reg y).getLsbD b)) ∧
    Completes (.and x y) s (fun t => RegResult x (t.reg x) s t ∧
      ∀ b, (t.reg x).getLsbD b = ((s.reg x).getLsbD b && (s.reg y).getLsbD b)) ∧
    Completes (.xor x y) s (fun t => RegResult x (t.reg x) s t ∧
      ∀ b, (t.reg x).getLsbD b = xor ((s.reg x).getLsbD b) ((s.reg y).getLsbD b))

/-- 43_alu.md R153: the flag of the five flag-writing ALU instructions, for every destination but VF itself;
VF is then exactly 0x00 or 0x01. -/
def Obligations.AluFlagValues : Prop :=
  ∀ (s : State) (x y : RegIdx), x ≠ regF →
    Completes (.addVxVy x y) s (fun t =>
      t.reg regF = if (s.reg x).toNat + (s.reg y).toNat > 255 then 0x01 else 0x00) ∧
    Completes (.sub x y) s (fun t =>
      t.reg regF = if (s.reg x).toNat > (s.reg y).toNat then 0x01 else 0x00) ∧
    Completes (.subn x y) s (fun t =>
      t.reg regF = if (s.reg y).toNat > (s.reg x).toNat then 0x01 else 0x00) ∧
    Completes (.shr x y) s (fun t =>
      t.reg regF = if (s.reg x).getLsbD 0 then 0x01 else 0x00) ∧
    Completes (.shl x y) s (fun t =>
      t.reg regF = if (s.reg x).getLsbD 7 then 0x01 else 0x00)

/-- The results of ADD, SUB, SUBN, SHR and SHL for every x and y, and their frame.  With x = 0xF the result
replaces the flag: this clause rests on the spec's own decision D1 (00_scope.md R11). -/
def Obligations.AluResultsReplaceTheFlag : Prop :=
  ∀ (s : State) (x y : RegIdx),
    Completes (.addVxVy x y) s (fun t => (t.reg x).toNat = ((s.reg x).toNat + (s.reg y).toNat) % 256 ∧
      (∀ z, z ≠ x → z ≠ regF → t.reg z = s.reg z) ∧ t.pc = s.pc + 2 ∧ ChangesOnly [.regs, .pc] s t) ∧
    Completes (.sub x y) s (fun t =>
      (t.reg x).toNat = ((s.reg x).toNat + 256 - (s.reg y).toNat) % 256 ∧
      (∀ z, z ≠ x → z ≠ regF → t.reg z = s.reg z) ∧ t.pc = s.pc + 2 ∧ ChangesOnly [.regs, .pc] s t) ∧
    Completes (.subn x y) s (fun t =>
      (t.reg x).toNat = ((s.reg y).toNat + 256 - (s.reg x).toNat) % 256 ∧
      (∀ z, z ≠ x → z ≠ regF → t.reg z = s.reg z) ∧ t.pc = s.pc + 2 ∧ ChangesOnly [.regs, .pc] s t) ∧
    Completes (.shr x y) s (fun t => (t.reg x).toNat = (s.reg x).toNat / 2 ∧
      (∀ z, z ≠ x → z ≠ regF → t.reg z = s.reg z) ∧ t.pc = s.pc + 2 ∧ ChangesOnly [.regs, .pc] s t) ∧
    Completes (.shl x y) s (fun t => (t.reg x).toNat = (s.reg x).toNat * 2 % 256 ∧
      (∀ z, z ≠ x → z ≠ regF → t.reg z = s.reg z) ∧ t.pc = s.pc + 2 ∧ ChangesOnly [.regs, .pc] s t)

/-- RND: the byte the environment has fixed next, or the free value, masked with kk.  That the byte is an input of
the step is the spec's decision D11; the feed and the free value are this model's (log 8). -/
def Obligations.RandomByteIsMasked : Prop :=
  ∀ (s : State) (x : RegIdx) (kk : Byte),
    Completes (.rnd x kk) s (fun t =>
      (∀ b rest, s.env.rndFeed = b :: rest →
        t.reg x = b &&& kk ∧ t.env.rndFeed = rest ∧ t.env.rndCount = s.env.rndCount) ∧
      (s.env.rndFeed = [] →
        t.reg x = Config.freeByte s.env.rndCount &&& kk ∧ t.env.rndFeed = [] ∧
        t.env.rndCount = s.env.rndCount + 1) ∧
      (∀ z, z ≠ x → t.reg z = s.reg z) ∧ t.pc = s.pc + 2 ∧ ChangesOnly [.regs, .pc, .rnd] s t)

/-! ## Skips -/

/-- The four comparing skips (42_skip.md R130, R131, R132, R133): +4 when the condition holds, else +2, and nothing
but pc changes; a skip near the end of memory leaves it, which the next fetch checks; the strict decoder takes no
word of families 5 and 9 whose low nibble is not 0. -/
def Obligations.CompareSkips : Prop :=
  RowDecodes 0xF000 0xF000 0x3000 (fun w => .seVxKk (fieldX w) (fieldKk w)) ∧
  RowDecodes 0xF000 0xF000 0x4000 (fun w => .sneVxKk (fieldX w) (fieldKk w)) ∧
  RowDecodes 0xF00F 0xF000 0x5000 (fun w => .seVxVy (fieldX w) (fieldY w)) ∧
  RowDecodes 0xF00F 0xF000 0x9000 (fun w => .sneVxVy (fieldX w) (fieldY w)) ∧
  (∀ w : Word, fieldOp w = 0x5 ∨ fieldOp w = 0x9 → fieldN w ≠ 0 →
    decode false w = .error (.unknownOpcode w)) ∧
  ∀ (s : State) (x y : RegIdx) (kk : Byte),
    Completes (.seVxKk x kk) s (SkipResult (s.reg x = kk) s) ∧
    Completes (.sneVxKk x kk) s (SkipResult (s.reg x ≠ kk) s) ∧
    Completes (.seVxVy x y) s (SkipResult (s.reg x = s.reg y) s) ∧
    Completes (.sneVxVy x y) s (SkipResult (s.reg x ≠ s.reg y) s)

/-- SKP and SKNP sample the level of the key that V[x] names; above 0xF its low nibble does, under the MASK
policy (42_skip.md R134, R135; the policies are the spec's decision D9). -/
def Obligations.KeySkips : Prop :=
  ∀ (s : State) (x : RegIdx), (s.reg x).toNat ≤ 0xF ∨ s.params.keyIndex = .mask →
    Completes (.skp x) s (fun t =>
      t.pc = (if s.env.key.getLsbD ((s.reg x).toNat % 16) then s.pc + 4 else s.pc + 2) ∧
      ChangesOnly [.pc] s t) ∧
    Completes (.sknp x) s (fun t =>
      t.pc = (if s.env.key.getLsbD ((s.reg x).toNat % 16) then s.pc + 2 else s.pc + 4) ∧
      ChangesOnly [.pc] s t)

/-- A key index above 0xF under the FAULT policy raises KEY_RANGE with V[x] as its information (the spec's
decision D9). -/
def Obligations.KeyIndexFault : Prop :=
  ∀ (s : State) (x : RegIdx), (s.reg x).toNat > 0xF → s.params.keyIndex = .fault →
    (∃ t, exec (.skp x) s = .next t ∧ FaultResult .keyRange (s.reg x).toNat s t) ∧
    (∃ t, exec (.sknp x) s = .next t ∧ FaultResult .keyRange (s.reg x).toNat s t)

/-! ## Control flow -/

/-- JP and JP V0 (41_control_flow.md R121, R123): the target, unmasked, and which targets the next fetch accepts. -/
def Obligations.Jumps : Prop :=
  RowDecodes 0xF000 0xF000 0x1000 (fun w => .jp (fieldNnn w)) ∧
  RowDecodes 0xF000 0xF000 0xB000 (fun w => .jpV0 (fieldNnn w)) ∧
  ∀ (s : State) (nnn : Addr),
    Completes (.jp nnn) s (fun t => t.pc.toNat = nnn.toNat ∧ ChangesOnly [.pc] s t ∧
      (t.fetchInBounds = true ↔ s.params.memOob = .wrap ∨ nnn.toNat ≠ 0xFFF)) ∧
    Completes (.jpV0 nnn) s (fun t => t.pc.toNat = nnn.toNat + (s.reg 0).toNat ∧
      ChangesOnly [.pc] s t ∧
      (t.fetchInBounds = true ↔ s.params.memOob = .wrap ∨ nnn.toNat + (s.reg 0).toNat ≤ 0xFFE))

/-- CALL with SP below 15 pushes the address of the CALL itself above the last entry; RET with SP above 0 goes
to the word after the saved address and keeps the entry (41_control_flow.md R120, R122; the bounds are the
spec's decisions D7, D8). -/
def Obligations.CallAndReturn : Prop :=
  ∀ (s : State) (nnn : Addr),
    (s.sp.toNat < 15 → Completes (.call nnn) s (fun t =>
      t.sp.toNat = s.sp.toNat + 1 ∧ t.stackAt t.sp = s.pc ∧ (∀ j, j ≠ t.sp → t.stackAt j = s.stackAt j) ∧
      t.pc.toNat = nnn.toNat ∧ ChangesOnly [.sp, .stack, .pc] s t)) ∧
    (0 < s.sp.toNat → Completes .ret s (fun t =>
      t.sp.toNat + 1 = s.sp.toNat ∧ t.pc = s.stackAt s.sp + 2 ∧ ChangesOnly [.sp, .pc] s t))

/-- A 16th outstanding call and a return with none halt the core and change nothing else (the spec's decisions
D7, D17). -/
def Obligations.StackFaults : Prop :=
  ∀ (s : State) (nnn : Addr),
    (s.sp.toNat = 15 → ∃ t, exec (.call nnn) s = .next t ∧ FaultResult .stackOverflow 15 s t) ∧
    (s.sp.toNat = 0 → ∃ t, exec .ret s = .next t ∧ FaultResult .stackUnderflow 0 s t)

/-- "`2nnn` from pc=P followed by `00EE` ⇒ final pc == P+2, sp restored to its pre-call value" (95_test_vectors.md
W6), from every state with room for a call. -/
def Obligations.ReturnUndoesCall : Prop :=
  ∀ (s : State) (nnn : Addr), s.sp.toNat < 15 →
    ∃ t u, exec (.call nnn) s = .next t ∧ exec .ret t = .next u ∧
      u.pc = s.pc + 2 ∧ u.sp = s.sp ∧ (∀ j, j ≠ s.sp + 1 → u.stackAt j = s.stackAt j) ∧
      ChangesOnly [.pc, .stack] s u

/-! ## The index register and memory -/

/-- LD I, ADD I and LD F (44_index_memory.md R160, R161, R162). -/
def Obligations.IndexLoads : Prop :=
  RowDecodes 0xF000 0xF000 0xA000 (fun w => .ldI (fieldNnn w)) ∧
  RowDecodes 0xF0FF 0xF0FF 0xF01E (fun w => .addIVx (fieldX w)) ∧
  RowDecodes 0xF0FF 0xF0FF 0xF029 (fun w => .ldFVx (fieldX w)) ∧
  ∀ (s : State) (x : RegIdx) (nnn : Addr),
    Completes (.ldI nnn) s (fun t => t.i.toNat = nnn.toNat ∧ t.pc = s.pc + 2 ∧
      ChangesOnly [.index, .pc] s t) ∧
    Completes (.addIVx x) s (fun t => t.i.toNat = (s.i.toNat + (s.reg x).toNat) % 65536 ∧
      t.pc = s.pc + 2 ∧ ChangesOnly [.index, .pc] s t) ∧
    Completes (.ldFVx x) s (fun t => t.i.toNat = (s.reg x).toNat * 5 ∧ t.pc = s.pc + 2 ∧
      ChangesOnly [.index, .pc] s t)

/-- LD B, Vx: the three digits at I, I + 1, I + 2, and MEM_BOUNDS with nothing written when they do not fit
(44_index_memory.md R163). -/
def Obligations.DecimalStore : Prop :=
  RowDecodes 0xF0FF 0xF0FF 0xF033 (fun w => .ldBVx (fieldX w)) ∧
  ∀ (s : State) (x : RegIdx),
    (s.BlockFits 3 → Completes (.ldBVx x) s (fun t =>
      (t.readByte (s.cellAddr 0)).toNat = (s.reg x).toNat / 100 ∧
      (t.readByte (s.cellAddr 1)).toNat = (s.reg x).toNat / 10 % 10 ∧
      (t.readByte (s.cellAddr 2)).toNat = (s.reg x).toNat % 10 ∧
      (∀ a, a < memSize → (∀ k, k < 3 → a ≠ s.cellAddr k) → t.readByte a = s.readByte a) ∧
      t.pc = s.pc + 2 ∧ ChangesOnly [.mem, .pc] s t)) ∧
    (s.params.memOob = .fault → s.i.toNat + 2 > 0xFFF →
      ∃ t, exec (.ldBVx x) s = .next t ∧
        FaultResult .memBounds (if s.i.toNat > 0xFFF then s.i.toNat else 0x1000) s t)

/-- LD [I], Vx: V[0] to V[x] at I to I + x, every other byte as before.  That I is kept is the spec's decision
D26. -/
def Obligations.BlockStore : Prop :=
  ∀ (s : State) (x : RegIdx), s.BlockFits (x.val + 1) →
    Completes (.ldMemVx x) s (fun t =>
      (∀ k : RegIdx, k ≤ x → t.readByte (s.cellAddr k.val) = s.reg k) ∧
      (∀ a, a < memSize → (∀ k, k ≤ x.val → a ≠ s.cellAddr k) → t.readByte a = s.readByte a) ∧
      t.pc = s.pc + 2 ∧ ChangesOnly [.mem, .pc] s t)

/-- LD Vx, [I]: V[0] to V[x] from I to I + x, the registers above x kept.  That I is kept is the spec's decision
D26. -/
def Obligations.BlockLoad : Prop :=
  ∀ (s : State) (x : RegIdx), s.BlockFits (x.val + 1) →
    Completes (.ldVxMem x) s (fun t =>
      (∀ k : RegIdx, k ≤ x → t.reg k = s.readByte (s.cellAddr k.val)) ∧
      (∀ k : RegIdx, x < k → t.reg k = s.reg k) ∧
      t.pc = s.pc + 2 ∧ ChangesOnly [.regs, .pc] s t)

/-- Registers stored by LD [I], Vx come back by LD Vx, [I] of the same x, whatever the registers hold by then, as
long as I, memory and the parameters are still those of the store. -/
def Obligations.BlockLoadUndoesStore : Prop :=
  ∀ (s t u : State) (x : RegIdx), s.BlockFits (x.val + 1) → exec (.ldMemVx x) s = .next t →
    u.i = t.i → u.mem = t.mem → u.params = t.params →
    Completes (.ldVxMem x) u (fun v => ∀ k : RegIdx, k ≤ x → v.reg k = s.reg k)

/-- A block transfer or a draw with a byte beyond 0xFFF raises MEM_BOUNDS, its information the lowest failing
address, before any write (20_memory.md R56, 60_exceptions.md R200; the FAULT policy is the spec's decision
D4). -/
def Obligations.MemoryBoundsFault : Prop :=
  ∀ (s : State) (x y : RegIdx) (n : Nat), s.params.memOob = .fault →
    (s.i.toNat + x.val > 0xFFF →
      (∃ t, exec (.ldMemVx x) s = .next t ∧
        FaultResult .memBounds (if s.i.toNat > 0xFFF then s.i.toNat else 0x1000) s t) ∧
      (∃ t, exec (.ldVxMem x) s = .next t ∧
        FaultResult .memBounds (if s.i.toNat > 0xFFF then s.i.toNat else 0x1000) s t)) ∧
    (0 < n → n ≤ 15 → s.i.toNat + n - 1 > 0xFFF →
      ∃ t, exec (.drw x y n) s = .next t ∧
        FaultResult .memBounds (if s.i.toNat > 0xFFF then s.i.toNat else 0x1000) s t)

/-! ## The framebuffer -/

/-- CLS turns every pixel off and pulses disp_clear, also on a clear framebuffer (45_display.md R170; the pulse is
the spec's decision D19). -/
def Obligations.ClearScreen : Prop :=
  ∀ s : State, Completes .cls s (fun t =>
    (∀ c r, t.pixel c r = false) ∧ t.out = { s.out with dispClear := true } ∧ t.pc = s.pc + 2 ∧
    ChangesOnly [.fb, .strobes, .pc] s t)

/-- DRW as one formula: each pixel is XORed with the sprite's bit for it, with wraparound, from the coordinates
before the instruction; VF is the collision flag, for every x and y (45_display.md R171, R173; reading V[x]
and V[y] before VF is written is the spec's decision D1, the address check D4). -/
def Obligations.DrawIsXorOfWrappedSprite : Prop :=
  ∀ (s : State) (x y : RegIdx) (n : Nat), n ≤ 15 → s.BlockFits n →
    Completes (.drw x y n) s (fun t =>
      (∀ c r, t.pixel c r = xor (s.pixel c r) (s.spriteAt x y n c r)) ∧
      (t.reg regF = if ∃ c r, s.pixel c r = true ∧ s.spriteAt x y n c r = true then 0x01 else 0x00) ∧
      (∀ z, z ≠ regF → t.reg z = s.reg z) ∧ t.out = { s.out with frameReady := true } ∧
      t.pc = s.pc + 2 ∧ ChangesOnly [.fb, .regs, .strobes, .pc] s t)

/-- 45_display.md R173: VF is 1 exactly when a pixel went from on to off; a pixel whose sprite bit is 0 is not
touched; a draw that erased nothing leaves VF 0.  Where x or y is VF, the sprite stands at the coordinates before
VF is written, which is the spec's decision D1; the address check is D4. -/
def Obligations.CollisionIsOnToOff : Prop :=
  ∀ (s : State) (x y : RegIdx) (n : Nat), n ≤ 15 → s.BlockFits n →
    Completes (.drw x y n) s (fun t =>
      (t.reg regF = 0x01 ↔ ∃ c r, s.pixel c r = true ∧ t.pixel c r = false) ∧
      (t.reg regF = 0x00 ↔ ∀ c r, s.pixel c r = true → t.pixel c r = true) ∧
      (∀ c r, s.spriteAt x y n c r = false → t.pixel c r = s.pixel c r))

/-- DRW with n = 0 sets VF to 0, changes no pixel, reads no memory and never faults (45_display.md R172, the spec's
decision D16). -/
def Obligations.DrawOfNoRows : Prop :=
  ∀ (s : State) (x y : RegIdx), Completes (.drw x y 0) s (fun t =>
    t.reg regF = 0x00 ∧ (∀ z, z ≠ regF → t.reg z = s.reg z) ∧
    t.out = { s.out with frameReady := true } ∧ t.pc = s.pc + 2 ∧
    ChangesOnly [.regs, .strobes, .pc] s t)

/-- The same sprite drawn twice at the same place restores the framebuffer; from an empty framebuffer the second
draw sets VF exactly when the sprite has a set bit (95_test_vectors.md W4; log 15).  x and y are not VF, which
the first draw writes. -/
def Obligations.DrawTwiceRestores : Prop :=
  ∀ (s t : State) (x y : RegIdx) (n : Nat), n ≤ 15 → s.BlockFits n → x ≠ regF → y ≠ regF →
    exec (.drw x y n) s = .next t →
    Completes (.drw x y n) t (fun u =>
      (∀ c r, u.pixel c r = s.pixel c r) ∧
      ((∀ c r, s.pixel c r = false) →
        (u.reg regF = 0x01 ↔ ∃ c r, s.spriteAt x y n c r = true)) ∧
      ChangesOnly [.regs, .strobes, .pc] s u)

/-! ## Timers and the key wait -/

/-- LD Vx, DT, LD DT, Vx and LD ST, Vx (46_timer_input.md R180, R182, R183); no instruction reads ST back: changing
it beforehand is changing it afterwards, and LD ST overwrites it. -/
def Obligations.TimerInstructions : Prop :=
  RowDecodes 0xF0FF 0xF0FF 0xF007 (fun w => .ldVxDt (fieldX w)) ∧
  RowDecodes 0xF0FF 0xF0FF 0xF015 (fun w => .ldDtVx (fieldX w)) ∧
  RowDecodes 0xF0FF 0xF0FF 0xF018 (fun w => .ldStVx (fieldX w)) ∧
  ∀ (s : State) (x : RegIdx),
    Completes (.ldVxDt x) s (RegResult x s.dt s) ∧
    Completes (.ldDtVx x) s (fun t => t.dt = s.reg x ∧ t.pc = s.pc + 2 ∧ ChangesOnly [.dt, .pc] s t) ∧
    Completes (.ldStVx x) s (fun t => t.st = s.reg x ∧ (t.tone = true ↔ 0 < (s.reg x).toNat) ∧
      t.pc = s.pc + 2 ∧ ChangesOnly [.st, .pc] s t) ∧
    (∀ b, exec (.ldStVx x) (s.setSt b) = exec (.ldStVx x) s) ∧
    (∀ b i, (∀ z, i ≠ .ldStVx z) → exec i (s.setSt b) = mapNext (fun t => t.setSt b) (exec i s))

/-- LD Vx, K, the issue: WAIT_KEY(x), pc kept (46_timer_input.md R181). -/
def Obligations.KeyWaitIssue : Prop :=
  ∀ (s : State) (x : RegIdx), Completes (.ldVxK x) s (fun t =>
    t.mode = .waitKey ∧ t.wx = x ∧ t.waitingPort = true ∧ ChangesOnly [.mode, .wx] s t)

/-- A reported press edge: in WAIT_KEY it stores the key in V[wx], advances pc and resumes without counting
against the budget; in any other mode it changes nothing and is not latched (46_timer_input.md R181,
60_exceptions.md R220; the spec's decisions D10, D27).  That wx is kept at the resume is this model's reading, not
the spec's words (log 11, DEDUCED). -/
def Obligations.KeyEdgeResumesOnlyTheWait : Prop :=
  ∀ (s : State) (k : Key) (rest : List Event), s.env.agenda = .keyEdge k :: rest →
    ∃ t, step s = .next t ∧ t.env.agenda = rest ∧ t.out = Signals.quiet ∧
      (s.mode = .waitKey →
        (t.reg s.wx).toNat = k.val ∧ (∀ z, z ≠ s.wx → t.reg z = s.reg z) ∧ t.pc = s.pc + 2 ∧
        t.mode = .run ∧ ChangesOnly [.regs, .pc, .mode, .agenda, .strobes] s t) ∧
      (s.mode ≠ .waitKey → ChangesOnly [.agenda, .strobes] s t)

/-- The whole of LD Vx, K as steps of the machine: the issue, any number of ticks, then the edge; V[x] holds the
key, pc is past the instruction, and the timers have counted down meanwhile (46_timer_input.md R181,
60_exceptions.md R212). -/
def Obligations.KeyWaitRunsToItsEdge : Prop :=
  ∀ (s : State) (x : RegIdx) (k : Key) (n : Nat) (rest : List Event), s.Enabled → s.FetchFits →
    s.params.divider = none →
    s.env.agenda = .instr :: (List.replicate n .tick ++ .keyEdge k :: rest) →
    decode s.params.decodeLenient s.fetchWord = .ok (.ldVxK x) →
    ∃ t, core.run (n + 2) s = .next t ∧ (t.reg x).toNat = k.val ∧
      (∀ z, z ≠ x → t.reg z = s.reg z) ∧ t.pc = s.pc + 2 ∧ t.mode = .run ∧
      t.dt.toNat = s.dt.toNat - n ∧ t.st.toNat = s.st.toNat - n ∧ t.env.agenda = rest ∧
      ChangesOnly [.regs, .pc, .wx, .dt, .st, .ipfCnt, .agenda, .strobes] s t

/-! ## The step -/

/-- An enabled instruction step whose word decodes to i is exec of i, in the state whose budget counter is one
higher, whose strobes are over and whose agenda has lost its entry (40_pipeline.md R100, R104, R109).  That an
enabled instruction step occurs also with an empty agenda is this model's choice, not the spec's rule (log 6). -/
def Obligations.StepRunsDecodedInstruction : Prop :=
  ∀ (s : State) (i : Instr), s.Enabled → s.InstrNext → s.FetchFits →
    decode s.params.decodeLenient s.fetchWord = .ok i →
    step s = exec i { s with
      ipfCnt := s.ipfCnt + 1
      out := Signals.quiet
      env := { s.env with agenda := s.env.agenda.tail } }

/-- The word of the fetch is big-endian (20_memory.md R52), and bytes stored by LD [I], Vx are
fetched as an instruction: a store to k and k + 1 makes V[k] the high and V[k + 1] the low byte of the word
at that address (R52's own words). -/
def Obligations.FetchIsBigEndianAndSeesStores : Prop :=
  (∀ s : State, s.fetchWord.toNat = (s.readByte s.pc.toNat).toNat * 256 + (s.readByte (s.pc.toNat + 1)).toNat) ∧
  ∀ (s t : State) (x k : RegIdx), s.BlockFits (x.val + 1) → k < x → exec (.ldMemVx x) s = .next t →
    t.pc.toNat = s.dataAddr k.val →
    t.fetchWord.toNat = (s.reg k).toNat * 256 + (s.reg (k + 1)).toNat

/-- A word that matches no row is reported with its address, and changes no state but the budget counter, and pc
only under UNKNOWN_PC_ADVANCE (40_pipeline.md R106, 60_exceptions.md R203; the spec's decisions D3, D27).  That the
enabled step occurs also with an empty agenda is this model's choice (log 6). -/
def Obligations.UnknownOpcodeIsReported : Prop :=
  ∀ s : State, s.Enabled → s.InstrNext → s.FetchFits →
    decode s.params.decodeLenient s.fetchWord = .error (.unknownOpcode s.fetchWord) →
    ∃ t, step s = .next t ∧ t.out = { Signals.quiet with unk := some (s.fetchWord, s.pc) } ∧
      t.pc = (if s.params.unknownPcAdvance then s.pc + 2 else s.pc) ∧
      t.ipfCnt = s.ipfCnt + 1 ∧ t.env.agenda = s.env.agenda.tail ∧
      ChangesOnly [.pc, .ipfCnt, .agenda, .strobes] s t

/-- A fetch beyond 0xFFE under the FAULT policy raises FETCH_BOUNDS with pc as its information, and still counts
against the budget (40_pipeline.md R102, R104; the spec's decisions D5, D27).  That the enabled step occurs also
with an empty agenda is this model's choice (log 6). -/
def Obligations.FetchBoundsFault : Prop :=
  ∀ s : State, s.Enabled → s.InstrNext → s.params.memOob = .fault → s.pc.toNat > 0xFFE →
    ∃ t, step s = .next t ∧ t.mode = .halted ∧ t.fault = .fetchBounds ∧
      t.faultInfo.toNat = s.pc.toNat ∧ t.ipfCnt = s.ipfCnt + 1 ∧
      ChangesOnly [.mode, .fault, .ipfCnt, .agenda, .strobes] s t

/-- Where no instruction step is enabled, none occurs: an offered one changes nothing, and with an empty agenda only
time passes (40_pipeline.md R100; that time then passes is this model's choice, log 6). -/
def Obligations.NoInstructionUnlessEnabled : Prop :=
  ∀ s : State, ¬ s.Enabled →
    (∀ rest, s.env.agenda = .instr :: rest →
      ∃ t, step s = .next t ∧ t.env.agenda = rest ∧ ChangesOnly [.agenda, .strobes] s t) ∧
    (s.env.agenda = [] →
      ∃ t, step s = .next t ∧ ChangesOnly [.dt, .st, .ipfCnt, .divCnt, .strobes] s t)

/-- A placed word is what the next step runs, from every state whose IPF is at least 1 (log 14). -/
def Obligations.PlacedWordRunsNext : Prop :=
  ∀ (s : State) (w : Nat) (i : Instr), 1 ≤ s.params.ipf →
    decode s.params.decodeLenient (BitVec.ofNat 16 w) = .ok i →
    step (s.withFetchWord 16 w) = exec i { s.withFetchWord 16 w with
      ipfCnt := (s.withFetchWord 16 w).ipfCnt + 1
      out := Signals.quiet
      env := s.env }

/-- A jump to itself changes nothing (40_pipeline.md R112, the end of a program). -/
def Obligations.SelfJumpIsFixedPoint : Prop :=
  ∀ (s : State) (nnn : Addr), s.pc = zextAddr nnn → exec (.jp nnn) s = .next s

/-! ## Ticks, the divider and the budget -/

/-- 60_exceptions.md R211: the tick step, in every mode (R212 is the spec's decision D17, the tone of R218 its
decision D20). -/
def Obligations.TickStep : Prop :=
  ∀ (s : State) (rest : List Event), s.env.agenda = .tick :: rest → s.params.divider = none →
    ∃ t, step s = .next t ∧ t.dt.toNat = s.dt.toNat - 1 ∧ t.st.toNat = s.st.toNat - 1 ∧ t.ipfCnt = 0 ∧
      t.env.agenda = rest ∧ (t.tone = true ↔ 1 < s.st.toNat) ∧
      ChangesOnly [.dt, .st, .ipfCnt, .agenda, .strobes] s t

/-- n ticks take n from each timer and stop at 0 (95_test_vectors.md W8; 70_reset_and_hazards.md R244). -/
def Obligations.TicksCountTimersDown : Prop :=
  ∀ (n : Nat) (s : State) (rest : List Event), s.params.divider = none →
    s.env.agenda = List.replicate n .tick ++ rest →
    ∃ t, core.run n s = .next t ∧ t.dt.toNat = s.dt.toNat - n ∧ t.st.toNat = s.st.toNat - n ∧
      t.env.agenda = rest ∧ ChangesOnly [.dt, .st, .ipfCnt, .agenda, .strobes] s t

/-- The clock divider: DIV consecutive clock cycles from any count make exactly one tick and come back to the same
count (60_exceptions.md R215, the spec's decision D14). -/
def Obligations.DividerTicksOncePerDiv : Prop :=
  ∀ (d : Nat) (s : State) (rest : List Event), s.params.divider = some d → s.divCnt < d →
    s.env.agenda = List.replicate d .clock ++ rest →
    ∃ t, core.run d s = .next t ∧ t.divCnt = s.divCnt ∧ t.dt.toNat = s.dt.toNat - 1 ∧
      t.st.toNat = s.st.toNat - 1 ∧ t.ipfCnt = 0 ∧ t.env.agenda = rest ∧
      ChangesOnly [.dt, .st, .ipfCnt, .agenda, .strobes] s t

/-- The budget: between two ticks, that is as long as no step clears it, the instruction steps of a run are at most
what is left of IPF; clock cycles that make no tick may lie in between (60_exceptions.md R214, R215, the spec's
decisions D13, D14).  What a step with an empty agenda does is this model's choice (log 6). -/
def Obligations.BudgetCapsInstructionSteps : Prop :=
  ∀ (k : Nat) (s : State), s.Inv → noTickWithin k s = true →
    s.ipfCnt + instructionSteps k s ≤ s.params.ipf

/-- A tick and LD DT, Vx or LD ST, Vx in one cycle: the tick comes first, so the written value stands, whether the
tick is a strobe or the divider's (60_exceptions.md R216, the spec's decision D14; the cycle as agenda entries is
this model's choice, log 13). -/
def Obligations.SameCycleTickComesFirst : Prop :=
  ∀ (s : State) (x : RegIdx) (rest : List Event), s.mode = .run → 1 ≤ s.params.ipf → s.FetchFits →
    s.tickDue = true → s.env.agenda = sameCycle s.params.divider false true none 1 ++ rest →
    (decode s.params.decodeLenient s.fetchWord = .ok (.ldDtVx x) →
      ∃ t, core.run 2 s = .next t ∧ t.dt = s.reg x ∧ t.st.toNat = s.st.toNat - 1 ∧ t.pc = s.pc + 2 ∧
        t.ipfCnt = 1 ∧ t.env.agenda = rest ∧ (s.params.divider ≠ none → t.divCnt = 0)) ∧
    (decode s.params.decodeLenient s.fetchWord = .ok (.ldStVx x) →
      ∃ t, core.run 2 s = .next t ∧ t.st = s.reg x ∧ t.dt.toNat = s.dt.toNat - 1 ∧ t.pc = s.pc + 2 ∧
        t.ipfCnt = 1 ∧ t.env.agenda = rest ∧ (s.params.divider ≠ none → t.divCnt = 0))

/-! ## Reset and the host -/

/-- The reset step, from any state: every piece of the core's state at its value of 10_state.md R40, the fontset
reloaded from the parameter FONT (several values are the spec's decision D15; the bytes of FONT at reset are
log 4). -/
def Obligations.ResetStep : Prop :=
  ∀ (s : State) (rest : List Event), s.env.agenda = .reset :: rest →
    ∃ t, step s = .next t ∧
      (∀ x, t.reg x = 0) ∧ t.i = 0 ∧ t.pc = 0x0200 ∧ (∀ j, t.stackAt j = 0) ∧ t.sp = 0 ∧
      t.dt = 0 ∧ t.st = 0 ∧ (∀ c r, t.pixel c r = false) ∧ t.mode = .idle ∧ t.wx = 0 ∧
      t.fault = .none ∧ t.faultInfo = 0 ∧ t.ipfCnt = 0 ∧ t.divCnt = 0 ∧
      (∀ (d : Fin 16) (r : Fin 5), t.readByte (5 * d.val + r.val) = (s.params.font[d.val])[r.val]) ∧
      (∀ a, 80 ≤ a → a < memSize → t.readByte a = 0) ∧
      t.tone = false ∧ t.env.agenda = rest ∧ ChangesOnly
        [.regs, .index, .pc, .stack, .sp, .mem, .fb, .dt, .st, .mode, .wx, .fault, .ipfCnt, .divCnt, .agenda,
         .strobes] s t

/-- Boot: reset, load and start, from any state, leave a running core whose first fetch is the ROM's first two
bytes at 0x200, with every byte beyond the ROM 0x00 (70_reset_and_hazards.md R231, R234; the load and start
are the spec's decision D21). -/
def Obligations.BootRunsTheRom : Prop :=
  ∀ (s : State) (rom : List Byte) (rest : List Event), rom.length ≤ maxRom →
    s.env.agenda = .reset :: .load rom :: .start :: rest →
    ∃ t, core.run 3 s = .next t ∧ t.mode = .run ∧ t.pc = 0x0200 ∧ t.env.agenda = rest ∧
      (∀ i, i < rom.length → t.readByte (0x200 + i) = rom.getD i 0) ∧
      (∀ a, 0x200 + rom.length ≤ a → a < memSize → t.readByte a = 0) ∧
      t.fetchWord.toNat = (rom.getD 0 0).toNat * 256 + (rom.getD 1 0).toNat ∧
      (∀ x, t.reg x = 0) ∧ t.i = 0 ∧ t.sp = 0 ∧ t.dt = 0 ∧ t.st = 0 ∧ (∀ c r, t.pixel c r = false)

/-- The load in IDLE: the ROM's bytes at 0x200, every other byte as before, or LOAD_TOO_LARGE and memory unchanged
(70_reset_and_hazards.md R233, the spec's decision D21). -/
def Obligations.HostLoad : Prop :=
  ∀ (s : State) (rom : List Byte) (rest : List Event), s.env.agenda = .load rom :: rest → s.mode = .idle →
    ∃ t, step s = .next t ∧ t.env.agenda = rest ∧
      (rom.length ≤ maxRom → t.out = { Signals.quiet with loadResult := some .success } ∧
        (∀ i, i < rom.length → t.readByte (progBase + i) = rom.getD i 0) ∧
        (∀ a, a < memSize → (∀ i, i < rom.length → a ≠ progBase + i) → t.readByte a = s.readByte a) ∧
        ChangesOnly [.mem, .agenda, .strobes] s t) ∧
      (maxRom < rom.length → t.out = { Signals.quiet with loadResult := some .tooLarge } ∧
        ChangesOnly [.agenda, .strobes] s t)

/-- exec and step have a meaning everywhere but at four environment steps the spec does not enable; each of the four
is refused by its own name, always and only there (that they are refused is this model's choice, log 7). -/
def Obligations.OnlyHostMisuseIsRefused : Prop :=
  (∀ (i : Instr) (s : State), ∃ t, exec i s = .next t) ∧
  ∀ s : State,
    ((∃ t, step s = .next t) ∨ step s = .refused .loadOutsideIdle ∨ step s = .refused .startOutsideIdle ∨
      step s = .refused .tickStrobeWithDivider ∨ step s = .refused .clockWithoutDivider) ∧
    (step s = .refused .loadOutsideIdle ↔
      s.mode ≠ .idle ∧ ∃ rom rest, s.env.agenda = .load rom :: rest) ∧
    (step s = .refused .startOutsideIdle ↔ s.mode ≠ .idle ∧ ∃ rest, s.env.agenda = .start :: rest) ∧
    (step s = .refused .tickStrobeWithDivider ↔
      s.params.divider ≠ none ∧ ∃ rest, s.env.agenda = .tick :: rest) ∧
    (step s = .refused .clockWithoutDivider ↔
      s.params.divider = none ∧ ∃ rest, s.env.agenda = .clock :: rest)

/-! ## Whole-machine rules -/

/-- The invariant that every step keeps. -/
def Obligations.StepKeepsInvariant : Prop :=
  ∀ s t : State, s.Inv → step s = .next t → t.Inv

/-- Before start the core stays as reset left it, whatever the environment does; every step keeps this, from every
state. -/
def Obligations.StepKeepsIdleAsReset : Prop :=
  ∀ s t : State, s.IdleIsReset → step s = .next t → t.IdleIsReset

/-- The state after reset meets both invariants and is IDLE, with every register 0 and pc at 0x200. -/
def Obligations.ResetMeetsTheInvariants : Prop :=
  State.reset.Inv ∧ State.reset.IdleIsReset ∧ State.reset.mode = .idle ∧
  (∀ x, State.reset.reg x = 0) ∧ State.reset.pc = 0x0200

/-- No step changes the parameters. -/
def Obligations.StepKeepsParameters : Prop :=
  ∀ s t : State, step s = .next t → t.params = s.params

/-- The run states (60_exceptions.md R201, R223; 10_state.md R34): RUN is left only by LD Vx, K, by a fault of an
instruction step, or by reset; WAIT_KEY is entered only by LD Vx, K and left only by a press edge or reset, all
state but the timers surviving it; HALTED is left only by reset; IDLE only by start.  The spec marks the modes and faults as its decisions
D17, D21; that an instruction step may also occur with an empty agenda is this model's choice (log 6). -/
def Obligations.ModesAreLeftOnlyAsStated : Prop :=
  ∀ s t : State, step s = .next t →
    (s.mode ≠ .waitKey → t.mode = .waitKey →
      s.mode = .run ∧ ∃ x, decode s.params.decodeLenient s.fetchWord = .ok (.ldVxK x) ∧ t.wx = x) ∧
    (s.mode = .waitKey →
      (t.mode = .waitKey ∧ ChangesOnly [.dt, .st, .ipfCnt, .divCnt, .agenda, .keyLevels, .strobes] s t) ∨
      (t.mode = .run ∧ ∃ k rest, s.env.agenda = .keyEdge k :: rest) ∨
      (t.mode = .idle ∧ ∃ rest, s.env.agenda = .reset :: rest)) ∧
    (s.mode = .halted →
      (t.mode = .halted ∧ ChangesOnly [.dt, .st, .ipfCnt, .divCnt, .agenda, .keyLevels, .strobes] s t) ∨
      (t.mode = .idle ∧ ∃ rest, s.env.agenda = .reset :: rest)) ∧
    (s.mode = .idle → t.mode = .idle ∨ (t.mode = .run ∧ ∃ rest, s.env.agenda = .start :: rest)) ∧
    (s.mode = .run →
      t.mode = .run ∨ (t.mode = .waitKey ∧ s.Enabled ∧ s.InstrNext) ∨
      (t.mode = .halted ∧ s.Enabled ∧ s.InstrNext ∧
        t.fault ∈ [.stackOverflow, .stackUnderflow, .memBounds, .fetchBounds, .keyRange]) ∨
      (t.mode = .idle ∧ ∃ rest, s.env.agenda = .reset :: rest))

/-- Which instruction may change which part: memory, the framebuffer, the stack, SP, I, the timers, the general
registers, the strobes; and that none changes the counters, the parameters, the agenda or the key levels
(10_state.md R23, R24, R26, R30, R31, R33; 20_memory.md R50, R51). -/
def Obligations.InstructionsWriteOnlyTheirState : Prop :=
  ∀ (i : Instr) (s t : State), exec i s = .next t →
    (∀ z, z ∉ instrWrites i → t.reg z = s.reg z) ∧
    (¬ Part.mem.same s t → ∃ x, i = .ldBVx x ∨ i = .ldMemVx x) ∧
    (¬ Part.fb.same s t → i = .cls ∨ ∃ x y n, i = .drw x y n) ∧
    (¬ Part.stack.same s t → ∃ nnn, i = .call nnn) ∧
    (t.sp ≠ s.sp → i = .ret ∨ ∃ nnn, i = .call nnn) ∧
    (t.i ≠ s.i → (∃ nnn, i = .ldI nnn) ∨ ∃ x, i = .addIVx x ∨ i = .ldFVx x) ∧
    (t.dt ≠ s.dt → ∃ x, i = .ldDtVx x) ∧
    (t.st ≠ s.st → ∃ x, i = .ldStVx x) ∧
    (¬ Part.rnd.same s t → ∃ x kk, i = .rnd x kk) ∧
    (t.mode = s.mode ∨ t.mode = .halted ∨ ∃ x, i = .ldVxK x) ∧
    ChangesOnly [.regs, .mem, .fb, .stack, .sp, .index, .dt, .st, .rnd, .mode, .wx, .fault, .pc, .strobes] s t

/-- A fault is precise: an instruction that halts the core changes only the mode and the fault register, and each
instruction raises only its own kind (20_memory.md R56, 60_exceptions.md R201, R205; the spec's decisions D4,
D17, D18). -/
def Obligations.FaultsArePrecise : Prop :=
  ∀ (i : Instr) (s t : State), s.mode ≠ .halted → exec i s = .next t → t.mode = .halted →
    ChangesOnly [.mode, .fault] s t ∧
    ((t.fault = .stackOverflow ∧ ∃ nnn, i = .call nnn) ∨
     (t.fault = .stackUnderflow ∧ i = .ret) ∨
     (t.fault = .memBounds ∧ s.params.memOob = .fault ∧ 0x1000 ≤ t.faultInfo.toNat ∧
       ((∃ x, i = .ldBVx x ∨ i = .ldMemVx x ∨ i = .ldVxMem x) ∨ ∃ x y n, i = .drw x y n)) ∨
     (t.fault = .keyRange ∧ s.params.keyIndex = .fault ∧ 0xF < t.faultInfo.toNat ∧
       ∃ x, i = .skp x ∨ i = .sknp x))

/-- What a program cannot see: the sound timer and the budget and divider counters influence no
instruction (10_state.md R31, R33); the framebuffer influences none but DRW (R30), and CLS overwrites it. -/
def Obligations.HiddenStateDoesNotInfluence : Prop :=
  ∀ (i : Instr) (s : State),
    (∀ n, exec i (s.setIpfCnt n) = mapNext (fun t => t.setIpfCnt n) (exec i s)) ∧
    (∀ n, exec i (s.setDivCnt n) = mapNext (fun t => t.setDivCnt n) (exec i s)) ∧
    (∀ b, (∀ x, i ≠ .ldStVx x) → exec i (s.setSt b) = mapNext (fun t => t.setSt b) (exec i s)) ∧
    (∀ b x, exec (.ldStVx x) (s.setSt b) = exec (.ldStVx x) s) ∧
    (∀ g, i ≠ .cls → (∀ x y n, i ≠ .drw x y n) →
      exec i (s.setFb g) = mapNext (fun t => t.setFb g) (exec i s)) ∧
    (∀ g, exec .cls (s.setFb g) = exec .cls s)

/-- The rest of the same-cycle order (60_exceptions.md R216, the spec's decision D14; the cycle as agenda entries is
this model's choice, log 13).  A reset comes before everything else in its cycle: whatever stands beside it, the
core is then as reset leaves it, but for the divider's own count of that cycle.  A tick comes before a key edge and the edge before an instruction step: the
instruction after the key wait runs in the cycle of the edge, with the key in its register. -/
def Obligations.SameCycleResetFirstInstructionLast : Prop :=
  (∀ (s : State) (strobe : Bool) (edge : Option Key) (n : Nat) (rest : List Event),
    s.env.agenda = sameCycle s.params.divider true strobe edge n ++ rest →
    ∃ t, core.run (sameCycle s.params.divider true strobe edge n).length s = .next t ∧
      t.mode = .idle ∧ t.env.agenda = rest ∧ ChangesOnly [.divCnt, .agenda, .strobes] s.resetStep t) ∧
  ∀ (s : State) (k : Key) (x : RegIdx) (rest : List Event), s.mode = .waitKey → 1 ≤ s.params.ipf →
    (s.setPc (s.pc + 2)).FetchFits → s.tickDue = true →
    s.env.agenda = sameCycle s.params.divider false true (some k) 1 ++ rest →
    decode s.params.decodeLenient (s.setPc (s.pc + 2)).fetchWord = .ok (.ldDtVx x) →
    ∃ t, core.run 3 s = .next t ∧ (t.reg s.wx).toNat = k.val ∧ t.dt = t.reg x ∧
      t.st.toNat = s.st.toNat - 1 ∧ t.pc = s.pc + 4 ∧ t.mode = .run ∧ t.ipfCnt = 1 ∧ t.env.agenda = rest
end

