-- ==== Sys2Proof/Laws/Decode.lean ====
section
/-! SUPPORT. The masks of the opcode table as arithmetic on the word's number (spec/30_encoding.md R75, R76). -/

namespace Sys2Proof

theorem and_F000 (w : Word) : (w &&& 0xF000#16).toNat = w.toNat / 0x1000 * 0x1000 := by
  have hshift : w &&& 0xF000#16 = (w >>> 12) <<< 12 := by
    ext i hi
    have hcases : i = 0 ∨ i = 1 ∨ i = 2 ∨ i = 3 ∨ i = 4 ∨ i = 5 ∨ i = 6 ∨ i = 7 ∨ i = 8 ∨ i = 9 ∨
        i = 10 ∨ i = 11 ∨ i = 12 ∨ i = 13 ∨ i = 14 ∨ i = 15 := by omega
    rcases hcases with h | h | h | h | h | h | h | h | h | h | h | h | h | h | h | h <;> subst h <;> simp
  rw [hshift]
  simp only [BitVec.toNat_shiftLeft, BitVec.toNat_ushiftRight, Nat.shiftRight_eq_div_pow,
    Nat.shiftLeft_eq]
  have hw := w.isLt
  omega

theorem and_000F (w : Word) : (w &&& 0x000F#16).toNat = w.toNat % 0x10 := by
  rw [BitVec.toNat_and]
  exact Nat.and_two_pow_sub_one_eq_mod w.toNat 4

theorem and_00FF (w : Word) : (w &&& 0x00FF#16).toNat = w.toNat % 0x100 := by
  rw [BitVec.toNat_and]
  exact Nat.and_two_pow_sub_one_eq_mod w.toNat 8

theorem and_mask_split (w a b : Word) (hab : a &&& b = 0#16) :
    w &&& (a ||| b) = (w &&& a) + (w &&& b) := by
  rw [BitVec.add_eq_or_of_and_eq_zero]
  · ext i hi
    simp only [BitVec.getElem_and, BitVec.getElem_or]
    cases w[i] <;> simp
  · have hzero : (w &&& a) &&& (w &&& b) = w &&& (a &&& b) := by
      ext i hi
      simp only [BitVec.getElem_and]
      cases w[i] <;> simp
    simp [hzero, hab]

theorem and_F00F (w : Word) : (w &&& 0xF00F#16).toNat = w.toNat / 0x1000 * 0x1000 + w.toNat % 0x10 := by
  rw [show (0xF00F#16) = 0xF000#16 ||| 0x000F#16 by decide, and_mask_split w _ _ (by decide),
    BitVec.toNat_add, and_F000, and_000F]
  have hw := w.isLt
  omega

theorem and_F0FF (w : Word) : (w &&& 0xF0FF#16).toNat = w.toNat / 0x1000 * 0x1000 + w.toNat % 0x100 := by
  rw [show (0xF0FF#16) = 0xF000#16 ||| 0x00FF#16 by decide, and_mask_split w _ _ (by decide),
    BitVec.toNat_add, and_F000, and_00FF]
  have hw := w.isLt
  omega

theorem and_FFFF (w : Word) : (w &&& 0xFFFF#16).toNat = w.toNat := by
  rw [BitVec.toNat_and]
  exact (Nat.and_two_pow_sub_one_eq_mod w.toNat 16).trans (Nat.mod_eq_of_lt w.isLt)

/-! ### The numbers of the encoded words, and their rows -/

theorem wordA_toNat (op : Nat) (hop : op < 16) (nnn : Addr) :
    (wordA op nnn).toNat = op * 0x1000 + nnn.toNat := by
  have hn := nnn.isLt
  simp only [wordA, BitVec.toNat_ofNat]
  omega

theorem wordXK_toNat (op : Nat) (hop : op < 16) (x : RegIdx) (kk : Byte) :
    (wordXK op x kk).toNat = op * 0x1000 + x.val * 0x100 + kk.toNat := by
  have hx := x.isLt
  have hk := kk.isLt
  simp only [wordXK, BitVec.toNat_ofNat]
  omega

theorem wordXYN_toNat (op : Nat) (hop : op < 16) (x y : RegIdx) (n : Nat) (hn : n < 16) :
    (wordXYN op x y n).toNat = op * 0x1000 + x.val * 0x100 + y.val * 0x10 + n := by
  have hx := x.isLt
  have hy := y.isLt
  simp only [wordXYN, BitVec.toNat_ofNat]
  omega

theorem wordA_row (op : Nat) (hop : op < 16) (nnn : Addr) (m : Word) (hm : m.toNat = op * 0x1000) :
    wordA op nnn &&& 0xF000#16 = m := by
  apply BitVec.eq_of_toNat_eq
  have hn := nnn.isLt
  rw [and_F000, wordA_toNat op hop, hm]
  omega

theorem wordXK_row (op : Nat) (hop : op < 16) (x : RegIdx) (kk : Byte) (m : Word)
    (hm : m.toNat = op * 0x1000) : wordXK op x kk &&& 0xF000#16 = m := by
  apply BitVec.eq_of_toNat_eq
  have hx := x.isLt
  have hk := kk.isLt
  rw [and_F000, wordXK_toNat op hop, hm]
  omega

theorem wordX_row (op : Nat) (hop : op < 16) (x : RegIdx) (kk : Byte) (m : Word)
    (hm : m.toNat = op * 0x1000 + kk.toNat) : wordXK op x kk &&& 0xF0FF#16 = m := by
  apply BitVec.eq_of_toNat_eq
  have hx := x.isLt
  have hk := kk.isLt
  rw [and_F0FF, wordXK_toNat op hop, hm]
  omega

theorem wordXY_row (op : Nat) (hop : op < 16) (x y : RegIdx) (n : Nat) (hn : n < 16) (m : Word)
    (hm : m.toNat = op * 0x1000 + n) : wordXYN op x y n &&& 0xF00F#16 = m := by
  apply BitVec.eq_of_toNat_eq
  have hx := x.isLt
  have hy := y.isLt
  rw [and_F00F, wordXYN_toNat op hop x y n hn, hm]
  omega

theorem wordXYN_row (op : Nat) (hop : op < 16) (x y : RegIdx) (n : Nat) (hn : n < 16) (m : Word)
    (hm : m.toNat = op * 0x1000) : wordXYN op x y n &&& 0xF000#16 = m := by
  apply BitVec.eq_of_toNat_eq
  have hx := x.isLt
  have hy := y.isLt
  rw [and_F000, wordXYN_toNat op hop x y n hn, hm]
  omega

end Sys2Proof
end

