-- ==== Sys2Proof/Laws/State.lean ====
section
/-! SUPPORT. One lemma per field per update of the state, each true by rfl, and the same for the four
observers (a register, a stack entry, a pixel, a byte of memory), so that no proof unfolds a record update.
Composite updates rewrite to the primitive ones. -/

namespace Sys2Proof.Machine.State

/-! ### setReg -/

@[simp] theorem setReg_v (s : State) (x : RegIdx) (b : Byte) :
    (s.setReg x b).v = s.v.set x.val b := rfl
@[simp] theorem setReg_i (s : State) (x : RegIdx) (b : Byte) :
    (s.setReg x b).i = s.i := rfl
@[simp] theorem setReg_pc (s : State) (x : RegIdx) (b : Byte) :
    (s.setReg x b).pc = s.pc := rfl
@[simp] theorem setReg_stack (s : State) (x : RegIdx) (b : Byte) :
    (s.setReg x b).stack = s.stack := rfl
@[simp] theorem setReg_sp (s : State) (x : RegIdx) (b : Byte) :
    (s.setReg x b).sp = s.sp := rfl
@[simp] theorem setReg_mem (s : State) (x : RegIdx) (b : Byte) :
    (s.setReg x b).mem = s.mem := rfl
@[simp] theorem setReg_fb (s : State) (x : RegIdx) (b : Byte) :
    (s.setReg x b).fb = s.fb := rfl
@[simp] theorem setReg_dt (s : State) (x : RegIdx) (b : Byte) :
    (s.setReg x b).dt = s.dt := rfl
@[simp] theorem setReg_st (s : State) (x : RegIdx) (b : Byte) :
    (s.setReg x b).st = s.st := rfl
@[simp] theorem setReg_mode (s : State) (x : RegIdx) (b : Byte) :
    (s.setReg x b).mode = s.mode := rfl
@[simp] theorem setReg_wx (s : State) (x : RegIdx) (b : Byte) :
    (s.setReg x b).wx = s.wx := rfl
@[simp] theorem setReg_fault (s : State) (x : RegIdx) (b : Byte) :
    (s.setReg x b).fault = s.fault := rfl
@[simp] theorem setReg_faultInfo (s : State) (x : RegIdx) (b : Byte) :
    (s.setReg x b).faultInfo = s.faultInfo := rfl
@[simp] theorem setReg_ipfCnt (s : State) (x : RegIdx) (b : Byte) :
    (s.setReg x b).ipfCnt = s.ipfCnt := rfl
@[simp] theorem setReg_divCnt (s : State) (x : RegIdx) (b : Byte) :
    (s.setReg x b).divCnt = s.divCnt := rfl
@[simp] theorem setReg_params (s : State) (x : RegIdx) (b : Byte) :
    (s.setReg x b).params = s.params := rfl
@[simp] theorem setReg_env (s : State) (x : RegIdx) (b : Byte) :
    (s.setReg x b).env = s.env := rfl
@[simp] theorem setReg_out (s : State) (x : RegIdx) (b : Byte) :
    (s.setReg x b).out = s.out := rfl
@[simp] theorem setReg_stackAt (s : State) (x : RegIdx) (b : Byte) (k : BitVec 4) :
    (s.setReg x b).stackAt k = s.stackAt k := rfl
@[simp] theorem setReg_pixel (s : State) (x : RegIdx) (b : Byte) (c : Fin 64) (r : Fin 32) :
    (s.setReg x b).pixel c r = s.pixel c r := rfl
@[simp] theorem setReg_readByte (s : State) (x : RegIdx) (b : Byte) (k : Nat) :
    (s.setReg x b).readByte k = s.readByte k := rfl

/-! ### setI -/

@[simp] theorem setI_v (s : State) (w : Word) :
    (s.setI w).v = s.v := rfl
@[simp] theorem setI_i (s : State) (w : Word) :
    (s.setI w).i = w := rfl
@[simp] theorem setI_pc (s : State) (w : Word) :
    (s.setI w).pc = s.pc := rfl
@[simp] theorem setI_stack (s : State) (w : Word) :
    (s.setI w).stack = s.stack := rfl
@[simp] theorem setI_sp (s : State) (w : Word) :
    (s.setI w).sp = s.sp := rfl
@[simp] theorem setI_mem (s : State) (w : Word) :
    (s.setI w).mem = s.mem := rfl
@[simp] theorem setI_fb (s : State) (w : Word) :
    (s.setI w).fb = s.fb := rfl
@[simp] theorem setI_dt (s : State) (w : Word) :
    (s.setI w).dt = s.dt := rfl
@[simp] theorem setI_st (s : State) (w : Word) :
    (s.setI w).st = s.st := rfl
@[simp] theorem setI_mode (s : State) (w : Word) :
    (s.setI w).mode = s.mode := rfl
@[simp] theorem setI_wx (s : State) (w : Word) :
    (s.setI w).wx = s.wx := rfl
@[simp] theorem setI_fault (s : State) (w : Word) :
    (s.setI w).fault = s.fault := rfl
@[simp] theorem setI_faultInfo (s : State) (w : Word) :
    (s.setI w).faultInfo = s.faultInfo := rfl
@[simp] theorem setI_ipfCnt (s : State) (w : Word) :
    (s.setI w).ipfCnt = s.ipfCnt := rfl
@[simp] theorem setI_divCnt (s : State) (w : Word) :
    (s.setI w).divCnt = s.divCnt := rfl
@[simp] theorem setI_params (s : State) (w : Word) :
    (s.setI w).params = s.params := rfl
@[simp] theorem setI_env (s : State) (w : Word) :
    (s.setI w).env = s.env := rfl
@[simp] theorem setI_out (s : State) (w : Word) :
    (s.setI w).out = s.out := rfl
@[simp] theorem setI_reg (s : State) (w : Word) (y : RegIdx) :
    (s.setI w).reg y = s.reg y := rfl
@[simp] theorem setI_stackAt (s : State) (w : Word) (k : BitVec 4) :
    (s.setI w).stackAt k = s.stackAt k := rfl
@[simp] theorem setI_pixel (s : State) (w : Word) (c : Fin 64) (r : Fin 32) :
    (s.setI w).pixel c r = s.pixel c r := rfl
@[simp] theorem setI_readByte (s : State) (w : Word) (k : Nat) :
    (s.setI w).readByte k = s.readByte k := rfl

/-! ### setPc -/

@[simp] theorem setPc_v (s : State) (w : Word) :
    (s.setPc w).v = s.v := rfl
@[simp] theorem setPc_i (s : State) (w : Word) :
    (s.setPc w).i = s.i := rfl
@[simp] theorem setPc_pc (s : State) (w : Word) :
    (s.setPc w).pc = w := rfl
@[simp] theorem setPc_stack (s : State) (w : Word) :
    (s.setPc w).stack = s.stack := rfl
@[simp] theorem setPc_sp (s : State) (w : Word) :
    (s.setPc w).sp = s.sp := rfl
@[simp] theorem setPc_mem (s : State) (w : Word) :
    (s.setPc w).mem = s.mem := rfl
@[simp] theorem setPc_fb (s : State) (w : Word) :
    (s.setPc w).fb = s.fb := rfl
@[simp] theorem setPc_dt (s : State) (w : Word) :
    (s.setPc w).dt = s.dt := rfl
@[simp] theorem setPc_st (s : State) (w : Word) :
    (s.setPc w).st = s.st := rfl
@[simp] theorem setPc_mode (s : State) (w : Word) :
    (s.setPc w).mode = s.mode := rfl
@[simp] theorem setPc_wx (s : State) (w : Word) :
    (s.setPc w).wx = s.wx := rfl
@[simp] theorem setPc_fault (s : State) (w : Word) :
    (s.setPc w).fault = s.fault := rfl
@[simp] theorem setPc_faultInfo (s : State) (w : Word) :
    (s.setPc w).faultInfo = s.faultInfo := rfl
@[simp] theorem setPc_ipfCnt (s : State) (w : Word) :
    (s.setPc w).ipfCnt = s.ipfCnt := rfl
@[simp] theorem setPc_divCnt (s : State) (w : Word) :
    (s.setPc w).divCnt = s.divCnt := rfl
@[simp] theorem setPc_params (s : State) (w : Word) :
    (s.setPc w).params = s.params := rfl
@[simp] theorem setPc_env (s : State) (w : Word) :
    (s.setPc w).env = s.env := rfl
@[simp] theorem setPc_out (s : State) (w : Word) :
    (s.setPc w).out = s.out := rfl
@[simp] theorem setPc_reg (s : State) (w : Word) (y : RegIdx) :
    (s.setPc w).reg y = s.reg y := rfl
@[simp] theorem setPc_stackAt (s : State) (w : Word) (k : BitVec 4) :
    (s.setPc w).stackAt k = s.stackAt k := rfl
@[simp] theorem setPc_pixel (s : State) (w : Word) (c : Fin 64) (r : Fin 32) :
    (s.setPc w).pixel c r = s.pixel c r := rfl
@[simp] theorem setPc_readByte (s : State) (w : Word) (k : Nat) :
    (s.setPc w).readByte k = s.readByte k := rfl

/-! ### setDt -/

@[simp] theorem setDt_v (s : State) (b : Byte) :
    (s.setDt b).v = s.v := rfl
@[simp] theorem setDt_i (s : State) (b : Byte) :
    (s.setDt b).i = s.i := rfl
@[simp] theorem setDt_pc (s : State) (b : Byte) :
    (s.setDt b).pc = s.pc := rfl
@[simp] theorem setDt_stack (s : State) (b : Byte) :
    (s.setDt b).stack = s.stack := rfl
@[simp] theorem setDt_sp (s : State) (b : Byte) :
    (s.setDt b).sp = s.sp := rfl
@[simp] theorem setDt_mem (s : State) (b : Byte) :
    (s.setDt b).mem = s.mem := rfl
@[simp] theorem setDt_fb (s : State) (b : Byte) :
    (s.setDt b).fb = s.fb := rfl
@[simp] theorem setDt_dt (s : State) (b : Byte) :
    (s.setDt b).dt = b := rfl
@[simp] theorem setDt_st (s : State) (b : Byte) :
    (s.setDt b).st = s.st := rfl
@[simp] theorem setDt_mode (s : State) (b : Byte) :
    (s.setDt b).mode = s.mode := rfl
@[simp] theorem setDt_wx (s : State) (b : Byte) :
    (s.setDt b).wx = s.wx := rfl
@[simp] theorem setDt_fault (s : State) (b : Byte) :
    (s.setDt b).fault = s.fault := rfl
@[simp] theorem setDt_faultInfo (s : State) (b : Byte) :
    (s.setDt b).faultInfo = s.faultInfo := rfl
@[simp] theorem setDt_ipfCnt (s : State) (b : Byte) :
    (s.setDt b).ipfCnt = s.ipfCnt := rfl
@[simp] theorem setDt_divCnt (s : State) (b : Byte) :
    (s.setDt b).divCnt = s.divCnt := rfl
@[simp] theorem setDt_params (s : State) (b : Byte) :
    (s.setDt b).params = s.params := rfl
@[simp] theorem setDt_env (s : State) (b : Byte) :
    (s.setDt b).env = s.env := rfl
@[simp] theorem setDt_out (s : State) (b : Byte) :
    (s.setDt b).out = s.out := rfl
@[simp] theorem setDt_reg (s : State) (b : Byte) (y : RegIdx) :
    (s.setDt b).reg y = s.reg y := rfl
@[simp] theorem setDt_stackAt (s : State) (b : Byte) (k : BitVec 4) :
    (s.setDt b).stackAt k = s.stackAt k := rfl
@[simp] theorem setDt_pixel (s : State) (b : Byte) (c : Fin 64) (r : Fin 32) :
    (s.setDt b).pixel c r = s.pixel c r := rfl
@[simp] theorem setDt_readByte (s : State) (b : Byte) (k : Nat) :
    (s.setDt b).readByte k = s.readByte k := rfl

/-! ### setSt -/

@[simp] theorem setSt_v (s : State) (b : Byte) :
    (s.setSt b).v = s.v := rfl
@[simp] theorem setSt_i (s : State) (b : Byte) :
    (s.setSt b).i = s.i := rfl
@[simp] theorem setSt_pc (s : State) (b : Byte) :
    (s.setSt b).pc = s.pc := rfl
@[simp] theorem setSt_stack (s : State) (b : Byte) :
    (s.setSt b).stack = s.stack := rfl
@[simp] theorem setSt_sp (s : State) (b : Byte) :
    (s.setSt b).sp = s.sp := rfl
@[simp] theorem setSt_mem (s : State) (b : Byte) :
    (s.setSt b).mem = s.mem := rfl
@[simp] theorem setSt_fb (s : State) (b : Byte) :
    (s.setSt b).fb = s.fb := rfl
@[simp] theorem setSt_dt (s : State) (b : Byte) :
    (s.setSt b).dt = s.dt := rfl
@[simp] theorem setSt_st (s : State) (b : Byte) :
    (s.setSt b).st = b := rfl
@[simp] theorem setSt_mode (s : State) (b : Byte) :
    (s.setSt b).mode = s.mode := rfl
@[simp] theorem setSt_wx (s : State) (b : Byte) :
    (s.setSt b).wx = s.wx := rfl
@[simp] theorem setSt_fault (s : State) (b : Byte) :
    (s.setSt b).fault = s.fault := rfl
@[simp] theorem setSt_faultInfo (s : State) (b : Byte) :
    (s.setSt b).faultInfo = s.faultInfo := rfl
@[simp] theorem setSt_ipfCnt (s : State) (b : Byte) :
    (s.setSt b).ipfCnt = s.ipfCnt := rfl
@[simp] theorem setSt_divCnt (s : State) (b : Byte) :
    (s.setSt b).divCnt = s.divCnt := rfl
@[simp] theorem setSt_params (s : State) (b : Byte) :
    (s.setSt b).params = s.params := rfl
@[simp] theorem setSt_env (s : State) (b : Byte) :
    (s.setSt b).env = s.env := rfl
@[simp] theorem setSt_out (s : State) (b : Byte) :
    (s.setSt b).out = s.out := rfl
@[simp] theorem setSt_reg (s : State) (b : Byte) (y : RegIdx) :
    (s.setSt b).reg y = s.reg y := rfl
@[simp] theorem setSt_stackAt (s : State) (b : Byte) (k : BitVec 4) :
    (s.setSt b).stackAt k = s.stackAt k := rfl
@[simp] theorem setSt_pixel (s : State) (b : Byte) (c : Fin 64) (r : Fin 32) :
    (s.setSt b).pixel c r = s.pixel c r := rfl
@[simp] theorem setSt_readByte (s : State) (b : Byte) (k : Nat) :
    (s.setSt b).readByte k = s.readByte k := rfl

/-! ### setSp -/

@[simp] theorem setSp_v (s : State) (j : BitVec 4) :
    (s.setSp j).v = s.v := rfl
@[simp] theorem setSp_i (s : State) (j : BitVec 4) :
    (s.setSp j).i = s.i := rfl
@[simp] theorem setSp_pc (s : State) (j : BitVec 4) :
    (s.setSp j).pc = s.pc := rfl
@[simp] theorem setSp_stack (s : State) (j : BitVec 4) :
    (s.setSp j).stack = s.stack := rfl
@[simp] theorem setSp_sp (s : State) (j : BitVec 4) :
    (s.setSp j).sp = j := rfl
@[simp] theorem setSp_mem (s : State) (j : BitVec 4) :
    (s.setSp j).mem = s.mem := rfl
@[simp] theorem setSp_fb (s : State) (j : BitVec 4) :
    (s.setSp j).fb = s.fb := rfl
@[simp] theorem setSp_dt (s : State) (j : BitVec 4) :
    (s.setSp j).dt = s.dt := rfl
@[simp] theorem setSp_st (s : State) (j : BitVec 4) :
    (s.setSp j).st = s.st := rfl
@[simp] theorem setSp_mode (s : State) (j : BitVec 4) :
    (s.setSp j).mode = s.mode := rfl
@[simp] theorem setSp_wx (s : State) (j : BitVec 4) :
    (s.setSp j).wx = s.wx := rfl
@[simp] theorem setSp_fault (s : State) (j : BitVec 4) :
    (s.setSp j).fault = s.fault := rfl
@[simp] theorem setSp_faultInfo (s : State) (j : BitVec 4) :
    (s.setSp j).faultInfo = s.faultInfo := rfl
@[simp] theorem setSp_ipfCnt (s : State) (j : BitVec 4) :
    (s.setSp j).ipfCnt = s.ipfCnt := rfl
@[simp] theorem setSp_divCnt (s : State) (j : BitVec 4) :
    (s.setSp j).divCnt = s.divCnt := rfl
@[simp] theorem setSp_params (s : State) (j : BitVec 4) :
    (s.setSp j).params = s.params := rfl
@[simp] theorem setSp_env (s : State) (j : BitVec 4) :
    (s.setSp j).env = s.env := rfl
@[simp] theorem setSp_out (s : State) (j : BitVec 4) :
    (s.setSp j).out = s.out := rfl
@[simp] theorem setSp_reg (s : State) (j : BitVec 4) (y : RegIdx) :
    (s.setSp j).reg y = s.reg y := rfl
@[simp] theorem setSp_stackAt (s : State) (j : BitVec 4) (k : BitVec 4) :
    (s.setSp j).stackAt k = s.stackAt k := rfl
@[simp] theorem setSp_pixel (s : State) (j : BitVec 4) (c : Fin 64) (r : Fin 32) :
    (s.setSp j).pixel c r = s.pixel c r := rfl
@[simp] theorem setSp_readByte (s : State) (j : BitVec 4) (k : Nat) :
    (s.setSp j).readByte k = s.readByte k := rfl

/-! ### setStackAt -/

@[simp] theorem setStackAt_v (s : State) (j : BitVec 4) (w : Word) :
    (s.setStackAt j w).v = s.v := rfl
@[simp] theorem setStackAt_i (s : State) (j : BitVec 4) (w : Word) :
    (s.setStackAt j w).i = s.i := rfl
@[simp] theorem setStackAt_pc (s : State) (j : BitVec 4) (w : Word) :
    (s.setStackAt j w).pc = s.pc := rfl
@[simp] theorem setStackAt_stack (s : State) (j : BitVec 4) (w : Word) :
    (s.setStackAt j w).stack = s.stack.set j.toNat w j.isLt := rfl
@[simp] theorem setStackAt_sp (s : State) (j : BitVec 4) (w : Word) :
    (s.setStackAt j w).sp = s.sp := rfl
@[simp] theorem setStackAt_mem (s : State) (j : BitVec 4) (w : Word) :
    (s.setStackAt j w).mem = s.mem := rfl
@[simp] theorem setStackAt_fb (s : State) (j : BitVec 4) (w : Word) :
    (s.setStackAt j w).fb = s.fb := rfl
@[simp] theorem setStackAt_dt (s : State) (j : BitVec 4) (w : Word) :
    (s.setStackAt j w).dt = s.dt := rfl
@[simp] theorem setStackAt_st (s : State) (j : BitVec 4) (w : Word) :
    (s.setStackAt j w).st = s.st := rfl
@[simp] theorem setStackAt_mode (s : State) (j : BitVec 4) (w : Word) :
    (s.setStackAt j w).mode = s.mode := rfl
@[simp] theorem setStackAt_wx (s : State) (j : BitVec 4) (w : Word) :
    (s.setStackAt j w).wx = s.wx := rfl
@[simp] theorem setStackAt_fault (s : State) (j : BitVec 4) (w : Word) :
    (s.setStackAt j w).fault = s.fault := rfl
@[simp] theorem setStackAt_faultInfo (s : State) (j : BitVec 4) (w : Word) :
    (s.setStackAt j w).faultInfo = s.faultInfo := rfl
@[simp] theorem setStackAt_ipfCnt (s : State) (j : BitVec 4) (w : Word) :
    (s.setStackAt j w).ipfCnt = s.ipfCnt := rfl
@[simp] theorem setStackAt_divCnt (s : State) (j : BitVec 4) (w : Word) :
    (s.setStackAt j w).divCnt = s.divCnt := rfl
@[simp] theorem setStackAt_params (s : State) (j : BitVec 4) (w : Word) :
    (s.setStackAt j w).params = s.params := rfl
@[simp] theorem setStackAt_env (s : State) (j : BitVec 4) (w : Word) :
    (s.setStackAt j w).env = s.env := rfl
@[simp] theorem setStackAt_out (s : State) (j : BitVec 4) (w : Word) :
    (s.setStackAt j w).out = s.out := rfl
@[simp] theorem setStackAt_reg (s : State) (j : BitVec 4) (w : Word) (y : RegIdx) :
    (s.setStackAt j w).reg y = s.reg y := rfl
@[simp] theorem setStackAt_pixel (s : State) (j : BitVec 4) (w : Word) (c : Fin 64) (r : Fin 32) :
    (s.setStackAt j w).pixel c r = s.pixel c r := rfl
@[simp] theorem setStackAt_readByte (s : State) (j : BitVec 4) (w : Word) (k : Nat) :
    (s.setStackAt j w).readByte k = s.readByte k := rfl

/-! ### setFb -/

@[simp] theorem setFb_v (s : State) (g : Vector (Vector Bool 32) 64) :
    (s.setFb g).v = s.v := rfl
@[simp] theorem setFb_i (s : State) (g : Vector (Vector Bool 32) 64) :
    (s.setFb g).i = s.i := rfl
@[simp] theorem setFb_pc (s : State) (g : Vector (Vector Bool 32) 64) :
    (s.setFb g).pc = s.pc := rfl
@[simp] theorem setFb_stack (s : State) (g : Vector (Vector Bool 32) 64) :
    (s.setFb g).stack = s.stack := rfl
@[simp] theorem setFb_sp (s : State) (g : Vector (Vector Bool 32) 64) :
    (s.setFb g).sp = s.sp := rfl
@[simp] theorem setFb_mem (s : State) (g : Vector (Vector Bool 32) 64) :
    (s.setFb g).mem = s.mem := rfl
@[simp] theorem setFb_fb (s : State) (g : Vector (Vector Bool 32) 64) :
    (s.setFb g).fb = g := rfl
@[simp] theorem setFb_dt (s : State) (g : Vector (Vector Bool 32) 64) :
    (s.setFb g).dt = s.dt := rfl
@[simp] theorem setFb_st (s : State) (g : Vector (Vector Bool 32) 64) :
    (s.setFb g).st = s.st := rfl
@[simp] theorem setFb_mode (s : State) (g : Vector (Vector Bool 32) 64) :
    (s.setFb g).mode = s.mode := rfl
@[simp] theorem setFb_wx (s : State) (g : Vector (Vector Bool 32) 64) :
    (s.setFb g).wx = s.wx := rfl
@[simp] theorem setFb_fault (s : State) (g : Vector (Vector Bool 32) 64) :
    (s.setFb g).fault = s.fault := rfl
@[simp] theorem setFb_faultInfo (s : State) (g : Vector (Vector Bool 32) 64) :
    (s.setFb g).faultInfo = s.faultInfo := rfl
@[simp] theorem setFb_ipfCnt (s : State) (g : Vector (Vector Bool 32) 64) :
    (s.setFb g).ipfCnt = s.ipfCnt := rfl
@[simp] theorem setFb_divCnt (s : State) (g : Vector (Vector Bool 32) 64) :
    (s.setFb g).divCnt = s.divCnt := rfl
@[simp] theorem setFb_params (s : State) (g : Vector (Vector Bool 32) 64) :
    (s.setFb g).params = s.params := rfl
@[simp] theorem setFb_env (s : State) (g : Vector (Vector Bool 32) 64) :
    (s.setFb g).env = s.env := rfl
@[simp] theorem setFb_out (s : State) (g : Vector (Vector Bool 32) 64) :
    (s.setFb g).out = s.out := rfl
@[simp] theorem setFb_reg (s : State) (g : Vector (Vector Bool 32) 64) (y : RegIdx) :
    (s.setFb g).reg y = s.reg y := rfl
@[simp] theorem setFb_stackAt (s : State) (g : Vector (Vector Bool 32) 64) (k : BitVec 4) :
    (s.setFb g).stackAt k = s.stackAt k := rfl
@[simp] theorem setFb_readByte (s : State) (g : Vector (Vector Bool 32) 64) (k : Nat) :
    (s.setFb g).readByte k = s.readByte k := rfl

/-! ### setMode -/

@[simp] theorem setMode_v (s : State) (m : Mode) :
    (s.setMode m).v = s.v := rfl
@[simp] theorem setMode_i (s : State) (m : Mode) :
    (s.setMode m).i = s.i := rfl
@[simp] theorem setMode_pc (s : State) (m : Mode) :
    (s.setMode m).pc = s.pc := rfl
@[simp] theorem setMode_stack (s : State) (m : Mode) :
    (s.setMode m).stack = s.stack := rfl
@[simp] theorem setMode_sp (s : State) (m : Mode) :
    (s.setMode m).sp = s.sp := rfl
@[simp] theorem setMode_mem (s : State) (m : Mode) :
    (s.setMode m).mem = s.mem := rfl
@[simp] theorem setMode_fb (s : State) (m : Mode) :
    (s.setMode m).fb = s.fb := rfl
@[simp] theorem setMode_dt (s : State) (m : Mode) :
    (s.setMode m).dt = s.dt := rfl
@[simp] theorem setMode_st (s : State) (m : Mode) :
    (s.setMode m).st = s.st := rfl
@[simp] theorem setMode_mode (s : State) (m : Mode) :
    (s.setMode m).mode = m := rfl
@[simp] theorem setMode_wx (s : State) (m : Mode) :
    (s.setMode m).wx = s.wx := rfl
@[simp] theorem setMode_fault (s : State) (m : Mode) :
    (s.setMode m).fault = s.fault := rfl
@[simp] theorem setMode_faultInfo (s : State) (m : Mode) :
    (s.setMode m).faultInfo = s.faultInfo := rfl
@[simp] theorem setMode_ipfCnt (s : State) (m : Mode) :
    (s.setMode m).ipfCnt = s.ipfCnt := rfl
@[simp] theorem setMode_divCnt (s : State) (m : Mode) :
    (s.setMode m).divCnt = s.divCnt := rfl
@[simp] theorem setMode_params (s : State) (m : Mode) :
    (s.setMode m).params = s.params := rfl
@[simp] theorem setMode_env (s : State) (m : Mode) :
    (s.setMode m).env = s.env := rfl
@[simp] theorem setMode_out (s : State) (m : Mode) :
    (s.setMode m).out = s.out := rfl
@[simp] theorem setMode_reg (s : State) (m : Mode) (y : RegIdx) :
    (s.setMode m).reg y = s.reg y := rfl
@[simp] theorem setMode_stackAt (s : State) (m : Mode) (k : BitVec 4) :
    (s.setMode m).stackAt k = s.stackAt k := rfl
@[simp] theorem setMode_pixel (s : State) (m : Mode) (c : Fin 64) (r : Fin 32) :
    (s.setMode m).pixel c r = s.pixel c r := rfl
@[simp] theorem setMode_readByte (s : State) (m : Mode) (k : Nat) :
    (s.setMode m).readByte k = s.readByte k := rfl

/-! ### suspend -/

@[simp] theorem suspend_v (s : State) (x : RegIdx) :
    (s.suspend x).v = s.v := rfl
@[simp] theorem suspend_i (s : State) (x : RegIdx) :
    (s.suspend x).i = s.i := rfl
@[simp] theorem suspend_pc (s : State) (x : RegIdx) :
    (s.suspend x).pc = s.pc := rfl
@[simp] theorem suspend_stack (s : State) (x : RegIdx) :
    (s.suspend x).stack = s.stack := rfl
@[simp] theorem suspend_sp (s : State) (x : RegIdx) :
    (s.suspend x).sp = s.sp := rfl
@[simp] theorem suspend_mem (s : State) (x : RegIdx) :
    (s.suspend x).mem = s.mem := rfl
@[simp] theorem suspend_fb (s : State) (x : RegIdx) :
    (s.suspend x).fb = s.fb := rfl
@[simp] theorem suspend_dt (s : State) (x : RegIdx) :
    (s.suspend x).dt = s.dt := rfl
@[simp] theorem suspend_st (s : State) (x : RegIdx) :
    (s.suspend x).st = s.st := rfl
@[simp] theorem suspend_mode (s : State) (x : RegIdx) :
    (s.suspend x).mode = .waitKey := rfl
@[simp] theorem suspend_wx (s : State) (x : RegIdx) :
    (s.suspend x).wx = x := rfl
@[simp] theorem suspend_fault (s : State) (x : RegIdx) :
    (s.suspend x).fault = s.fault := rfl
@[simp] theorem suspend_faultInfo (s : State) (x : RegIdx) :
    (s.suspend x).faultInfo = s.faultInfo := rfl
@[simp] theorem suspend_ipfCnt (s : State) (x : RegIdx) :
    (s.suspend x).ipfCnt = s.ipfCnt := rfl
@[simp] theorem suspend_divCnt (s : State) (x : RegIdx) :
    (s.suspend x).divCnt = s.divCnt := rfl
@[simp] theorem suspend_params (s : State) (x : RegIdx) :
    (s.suspend x).params = s.params := rfl
@[simp] theorem suspend_env (s : State) (x : RegIdx) :
    (s.suspend x).env = s.env := rfl
@[simp] theorem suspend_out (s : State) (x : RegIdx) :
    (s.suspend x).out = s.out := rfl
@[simp] theorem suspend_reg (s : State) (x : RegIdx) (y : RegIdx) :
    (s.suspend x).reg y = s.reg y := rfl
@[simp] theorem suspend_stackAt (s : State) (x : RegIdx) (k : BitVec 4) :
    (s.suspend x).stackAt k = s.stackAt k := rfl
@[simp] theorem suspend_pixel (s : State) (x : RegIdx) (c : Fin 64) (r : Fin 32) :
    (s.suspend x).pixel c r = s.pixel c r := rfl
@[simp] theorem suspend_readByte (s : State) (x : RegIdx) (k : Nat) :
    (s.suspend x).readByte k = s.readByte k := rfl

/-! ### raiseFault -/

@[simp] theorem raiseFault_v (s : State) (code : FaultCode) (n : BitVec 17) :
    (s.raiseFault code n).v = s.v := rfl
@[simp] theorem raiseFault_i (s : State) (code : FaultCode) (n : BitVec 17) :
    (s.raiseFault code n).i = s.i := rfl
@[simp] theorem raiseFault_pc (s : State) (code : FaultCode) (n : BitVec 17) :
    (s.raiseFault code n).pc = s.pc := rfl
@[simp] theorem raiseFault_stack (s : State) (code : FaultCode) (n : BitVec 17) :
    (s.raiseFault code n).stack = s.stack := rfl
@[simp] theorem raiseFault_sp (s : State) (code : FaultCode) (n : BitVec 17) :
    (s.raiseFault code n).sp = s.sp := rfl
@[simp] theorem raiseFault_mem (s : State) (code : FaultCode) (n : BitVec 17) :
    (s.raiseFault code n).mem = s.mem := rfl
@[simp] theorem raiseFault_fb (s : State) (code : FaultCode) (n : BitVec 17) :
    (s.raiseFault code n).fb = s.fb := rfl
@[simp] theorem raiseFault_dt (s : State) (code : FaultCode) (n : BitVec 17) :
    (s.raiseFault code n).dt = s.dt := rfl
@[simp] theorem raiseFault_st (s : State) (code : FaultCode) (n : BitVec 17) :
    (s.raiseFault code n).st = s.st := rfl
@[simp] theorem raiseFault_mode (s : State) (code : FaultCode) (n : BitVec 17) :
    (s.raiseFault code n).mode = .halted := rfl
@[simp] theorem raiseFault_wx (s : State) (code : FaultCode) (n : BitVec 17) :
    (s.raiseFault code n).wx = s.wx := rfl
@[simp] theorem raiseFault_fault (s : State) (code : FaultCode) (n : BitVec 17) :
    (s.raiseFault code n).fault = code := rfl
@[simp] theorem raiseFault_faultInfo (s : State) (code : FaultCode) (n : BitVec 17) :
    (s.raiseFault code n).faultInfo = n := rfl
@[simp] theorem raiseFault_ipfCnt (s : State) (code : FaultCode) (n : BitVec 17) :
    (s.raiseFault code n).ipfCnt = s.ipfCnt := rfl
@[simp] theorem raiseFault_divCnt (s : State) (code : FaultCode) (n : BitVec 17) :
    (s.raiseFault code n).divCnt = s.divCnt := rfl
@[simp] theorem raiseFault_params (s : State) (code : FaultCode) (n : BitVec 17) :
    (s.raiseFault code n).params = s.params := rfl
@[simp] theorem raiseFault_env (s : State) (code : FaultCode) (n : BitVec 17) :
    (s.raiseFault code n).env = s.env := rfl
@[simp] theorem raiseFault_out (s : State) (code : FaultCode) (n : BitVec 17) :
    (s.raiseFault code n).out = s.out := rfl
@[simp] theorem raiseFault_reg (s : State) (code : FaultCode) (n : BitVec 17) (y : RegIdx) :
    (s.raiseFault code n).reg y = s.reg y := rfl
@[simp] theorem raiseFault_stackAt (s : State) (code : FaultCode) (n : BitVec 17) (k : BitVec 4) :
    (s.raiseFault code n).stackAt k = s.stackAt k := rfl
@[simp] theorem raiseFault_pixel (s : State) (code : FaultCode) (n : BitVec 17) (c : Fin 64) (r : Fin 32) :
    (s.raiseFault code n).pixel c r = s.pixel c r := rfl
@[simp] theorem raiseFault_readByte (s : State) (code : FaultCode) (n : BitVec 17) (k : Nat) :
    (s.raiseFault code n).readByte k = s.readByte k := rfl

/-! ### setIpfCnt -/

@[simp] theorem setIpfCnt_v (s : State) (n : Nat) :
    (s.setIpfCnt n).v = s.v := rfl
@[simp] theorem setIpfCnt_i (s : State) (n : Nat) :
    (s.setIpfCnt n).i = s.i := rfl
@[simp] theorem setIpfCnt_pc (s : State) (n : Nat) :
    (s.setIpfCnt n).pc = s.pc := rfl
@[simp] theorem setIpfCnt_stack (s : State) (n : Nat) :
    (s.setIpfCnt n).stack = s.stack := rfl
@[simp] theorem setIpfCnt_sp (s : State) (n : Nat) :
    (s.setIpfCnt n).sp = s.sp := rfl
@[simp] theorem setIpfCnt_mem (s : State) (n : Nat) :
    (s.setIpfCnt n).mem = s.mem := rfl
@[simp] theorem setIpfCnt_fb (s : State) (n : Nat) :
    (s.setIpfCnt n).fb = s.fb := rfl
@[simp] theorem setIpfCnt_dt (s : State) (n : Nat) :
    (s.setIpfCnt n).dt = s.dt := rfl
@[simp] theorem setIpfCnt_st (s : State) (n : Nat) :
    (s.setIpfCnt n).st = s.st := rfl
@[simp] theorem setIpfCnt_mode (s : State) (n : Nat) :
    (s.setIpfCnt n).mode = s.mode := rfl
@[simp] theorem setIpfCnt_wx (s : State) (n : Nat) :
    (s.setIpfCnt n).wx = s.wx := rfl
@[simp] theorem setIpfCnt_fault (s : State) (n : Nat) :
    (s.setIpfCnt n).fault = s.fault := rfl
@[simp] theorem setIpfCnt_faultInfo (s : State) (n : Nat) :
    (s.setIpfCnt n).faultInfo = s.faultInfo := rfl
@[simp] theorem setIpfCnt_ipfCnt (s : State) (n : Nat) :
    (s.setIpfCnt n).ipfCnt = n := rfl
@[simp] theorem setIpfCnt_divCnt (s : State) (n : Nat) :
    (s.setIpfCnt n).divCnt = s.divCnt := rfl
@[simp] theorem setIpfCnt_params (s : State) (n : Nat) :
    (s.setIpfCnt n).params = s.params := rfl
@[simp] theorem setIpfCnt_env (s : State) (n : Nat) :
    (s.setIpfCnt n).env = s.env := rfl
@[simp] theorem setIpfCnt_out (s : State) (n : Nat) :
    (s.setIpfCnt n).out = s.out := rfl
@[simp] theorem setIpfCnt_reg (s : State) (n : Nat) (y : RegIdx) :
    (s.setIpfCnt n).reg y = s.reg y := rfl
@[simp] theorem setIpfCnt_stackAt (s : State) (n : Nat) (k : BitVec 4) :
    (s.setIpfCnt n).stackAt k = s.stackAt k := rfl
@[simp] theorem setIpfCnt_pixel (s : State) (n : Nat) (c : Fin 64) (r : Fin 32) :
    (s.setIpfCnt n).pixel c r = s.pixel c r := rfl
@[simp] theorem setIpfCnt_readByte (s : State) (n : Nat) (k : Nat) :
    (s.setIpfCnt n).readByte k = s.readByte k := rfl

/-! ### setDivCnt -/

@[simp] theorem setDivCnt_v (s : State) (n : Nat) :
    (s.setDivCnt n).v = s.v := rfl
@[simp] theorem setDivCnt_i (s : State) (n : Nat) :
    (s.setDivCnt n).i = s.i := rfl
@[simp] theorem setDivCnt_pc (s : State) (n : Nat) :
    (s.setDivCnt n).pc = s.pc := rfl
@[simp] theorem setDivCnt_stack (s : State) (n : Nat) :
    (s.setDivCnt n).stack = s.stack := rfl
@[simp] theorem setDivCnt_sp (s : State) (n : Nat) :
    (s.setDivCnt n).sp = s.sp := rfl
@[simp] theorem setDivCnt_mem (s : State) (n : Nat) :
    (s.setDivCnt n).mem = s.mem := rfl
@[simp] theorem setDivCnt_fb (s : State) (n : Nat) :
    (s.setDivCnt n).fb = s.fb := rfl
@[simp] theorem setDivCnt_dt (s : State) (n : Nat) :
    (s.setDivCnt n).dt = s.dt := rfl
@[simp] theorem setDivCnt_st (s : State) (n : Nat) :
    (s.setDivCnt n).st = s.st := rfl
@[simp] theorem setDivCnt_mode (s : State) (n : Nat) :
    (s.setDivCnt n).mode = s.mode := rfl
@[simp] theorem setDivCnt_wx (s : State) (n : Nat) :
    (s.setDivCnt n).wx = s.wx := rfl
@[simp] theorem setDivCnt_fault (s : State) (n : Nat) :
    (s.setDivCnt n).fault = s.fault := rfl
@[simp] theorem setDivCnt_faultInfo (s : State) (n : Nat) :
    (s.setDivCnt n).faultInfo = s.faultInfo := rfl
@[simp] theorem setDivCnt_ipfCnt (s : State) (n : Nat) :
    (s.setDivCnt n).ipfCnt = s.ipfCnt := rfl
@[simp] theorem setDivCnt_divCnt (s : State) (n : Nat) :
    (s.setDivCnt n).divCnt = n := rfl
@[simp] theorem setDivCnt_params (s : State) (n : Nat) :
    (s.setDivCnt n).params = s.params := rfl
@[simp] theorem setDivCnt_env (s : State) (n : Nat) :
    (s.setDivCnt n).env = s.env := rfl
@[simp] theorem setDivCnt_out (s : State) (n : Nat) :
    (s.setDivCnt n).out = s.out := rfl
@[simp] theorem setDivCnt_reg (s : State) (n : Nat) (y : RegIdx) :
    (s.setDivCnt n).reg y = s.reg y := rfl
@[simp] theorem setDivCnt_stackAt (s : State) (n : Nat) (k : BitVec 4) :
    (s.setDivCnt n).stackAt k = s.stackAt k := rfl
@[simp] theorem setDivCnt_pixel (s : State) (n : Nat) (c : Fin 64) (r : Fin 32) :
    (s.setDivCnt n).pixel c r = s.pixel c r := rfl
@[simp] theorem setDivCnt_readByte (s : State) (n : Nat) (k : Nat) :
    (s.setDivCnt n).readByte k = s.readByte k := rfl

/-! ### setEnv -/

@[simp] theorem setEnv_v (s : State) (e : Env) :
    (s.setEnv e).v = s.v := rfl
@[simp] theorem setEnv_i (s : State) (e : Env) :
    (s.setEnv e).i = s.i := rfl
@[simp] theorem setEnv_pc (s : State) (e : Env) :
    (s.setEnv e).pc = s.pc := rfl
@[simp] theorem setEnv_stack (s : State) (e : Env) :
    (s.setEnv e).stack = s.stack := rfl
@[simp] theorem setEnv_sp (s : State) (e : Env) :
    (s.setEnv e).sp = s.sp := rfl
@[simp] theorem setEnv_mem (s : State) (e : Env) :
    (s.setEnv e).mem = s.mem := rfl
@[simp] theorem setEnv_fb (s : State) (e : Env) :
    (s.setEnv e).fb = s.fb := rfl
@[simp] theorem setEnv_dt (s : State) (e : Env) :
    (s.setEnv e).dt = s.dt := rfl
@[simp] theorem setEnv_st (s : State) (e : Env) :
    (s.setEnv e).st = s.st := rfl
@[simp] theorem setEnv_mode (s : State) (e : Env) :
    (s.setEnv e).mode = s.mode := rfl
@[simp] theorem setEnv_wx (s : State) (e : Env) :
    (s.setEnv e).wx = s.wx := rfl
@[simp] theorem setEnv_fault (s : State) (e : Env) :
    (s.setEnv e).fault = s.fault := rfl
@[simp] theorem setEnv_faultInfo (s : State) (e : Env) :
    (s.setEnv e).faultInfo = s.faultInfo := rfl
@[simp] theorem setEnv_ipfCnt (s : State) (e : Env) :
    (s.setEnv e).ipfCnt = s.ipfCnt := rfl
@[simp] theorem setEnv_divCnt (s : State) (e : Env) :
    (s.setEnv e).divCnt = s.divCnt := rfl
@[simp] theorem setEnv_params (s : State) (e : Env) :
    (s.setEnv e).params = s.params := rfl
@[simp] theorem setEnv_env (s : State) (e : Env) :
    (s.setEnv e).env = e := rfl
@[simp] theorem setEnv_out (s : State) (e : Env) :
    (s.setEnv e).out = s.out := rfl
@[simp] theorem setEnv_reg (s : State) (e : Env) (y : RegIdx) :
    (s.setEnv e).reg y = s.reg y := rfl
@[simp] theorem setEnv_stackAt (s : State) (e : Env) (k : BitVec 4) :
    (s.setEnv e).stackAt k = s.stackAt k := rfl
@[simp] theorem setEnv_pixel (s : State) (e : Env) (c : Fin 64) (r : Fin 32) :
    (s.setEnv e).pixel c r = s.pixel c r := rfl
@[simp] theorem setEnv_readByte (s : State) (e : Env) (k : Nat) :
    (s.setEnv e).readByte k = s.readByte k := rfl

/-! ### setOut -/

@[simp] theorem setOut_v (s : State) (o : Signals) :
    (s.setOut o).v = s.v := rfl
@[simp] theorem setOut_i (s : State) (o : Signals) :
    (s.setOut o).i = s.i := rfl
@[simp] theorem setOut_pc (s : State) (o : Signals) :
    (s.setOut o).pc = s.pc := rfl
@[simp] theorem setOut_stack (s : State) (o : Signals) :
    (s.setOut o).stack = s.stack := rfl
@[simp] theorem setOut_sp (s : State) (o : Signals) :
    (s.setOut o).sp = s.sp := rfl
@[simp] theorem setOut_mem (s : State) (o : Signals) :
    (s.setOut o).mem = s.mem := rfl
@[simp] theorem setOut_fb (s : State) (o : Signals) :
    (s.setOut o).fb = s.fb := rfl
@[simp] theorem setOut_dt (s : State) (o : Signals) :
    (s.setOut o).dt = s.dt := rfl
@[simp] theorem setOut_st (s : State) (o : Signals) :
    (s.setOut o).st = s.st := rfl
@[simp] theorem setOut_mode (s : State) (o : Signals) :
    (s.setOut o).mode = s.mode := rfl
@[simp] theorem setOut_wx (s : State) (o : Signals) :
    (s.setOut o).wx = s.wx := rfl
@[simp] theorem setOut_fault (s : State) (o : Signals) :
    (s.setOut o).fault = s.fault := rfl
@[simp] theorem setOut_faultInfo (s : State) (o : Signals) :
    (s.setOut o).faultInfo = s.faultInfo := rfl
@[simp] theorem setOut_ipfCnt (s : State) (o : Signals) :
    (s.setOut o).ipfCnt = s.ipfCnt := rfl
@[simp] theorem setOut_divCnt (s : State) (o : Signals) :
    (s.setOut o).divCnt = s.divCnt := rfl
@[simp] theorem setOut_params (s : State) (o : Signals) :
    (s.setOut o).params = s.params := rfl
@[simp] theorem setOut_env (s : State) (o : Signals) :
    (s.setOut o).env = s.env := rfl
@[simp] theorem setOut_out (s : State) (o : Signals) :
    (s.setOut o).out = o := rfl
@[simp] theorem setOut_reg (s : State) (o : Signals) (y : RegIdx) :
    (s.setOut o).reg y = s.reg y := rfl
@[simp] theorem setOut_stackAt (s : State) (o : Signals) (k : BitVec 4) :
    (s.setOut o).stackAt k = s.stackAt k := rfl
@[simp] theorem setOut_pixel (s : State) (o : Signals) (c : Fin 64) (r : Fin 32) :
    (s.setOut o).pixel c r = s.pixel c r := rfl
@[simp] theorem setOut_readByte (s : State) (o : Signals) (k : Nat) :
    (s.setOut o).readByte k = s.readByte k := rfl

/-! ### writeByte -/

@[simp] theorem writeByte_v (s : State) (a : Nat) (b : Byte) :
    (s.writeByte a b).v = s.v := rfl
@[simp] theorem writeByte_i (s : State) (a : Nat) (b : Byte) :
    (s.writeByte a b).i = s.i := rfl
@[simp] theorem writeByte_pc (s : State) (a : Nat) (b : Byte) :
    (s.writeByte a b).pc = s.pc := rfl
@[simp] theorem writeByte_stack (s : State) (a : Nat) (b : Byte) :
    (s.writeByte a b).stack = s.stack := rfl
@[simp] theorem writeByte_sp (s : State) (a : Nat) (b : Byte) :
    (s.writeByte a b).sp = s.sp := rfl
@[simp] theorem writeByte_mem (s : State) (a : Nat) (b : Byte) :
    (s.writeByte a b).mem = Memory.write s.params (a % memSize) b s.mem := rfl
@[simp] theorem writeByte_fb (s : State) (a : Nat) (b : Byte) :
    (s.writeByte a b).fb = s.fb := rfl
@[simp] theorem writeByte_dt (s : State) (a : Nat) (b : Byte) :
    (s.writeByte a b).dt = s.dt := rfl
@[simp] theorem writeByte_st (s : State) (a : Nat) (b : Byte) :
    (s.writeByte a b).st = s.st := rfl
@[simp] theorem writeByte_mode (s : State) (a : Nat) (b : Byte) :
    (s.writeByte a b).mode = s.mode := rfl
@[simp] theorem writeByte_wx (s : State) (a : Nat) (b : Byte) :
    (s.writeByte a b).wx = s.wx := rfl
@[simp] theorem writeByte_fault (s : State) (a : Nat) (b : Byte) :
    (s.writeByte a b).fault = s.fault := rfl
@[simp] theorem writeByte_faultInfo (s : State) (a : Nat) (b : Byte) :
    (s.writeByte a b).faultInfo = s.faultInfo := rfl
@[simp] theorem writeByte_ipfCnt (s : State) (a : Nat) (b : Byte) :
    (s.writeByte a b).ipfCnt = s.ipfCnt := rfl
@[simp] theorem writeByte_divCnt (s : State) (a : Nat) (b : Byte) :
    (s.writeByte a b).divCnt = s.divCnt := rfl
@[simp] theorem writeByte_params (s : State) (a : Nat) (b : Byte) :
    (s.writeByte a b).params = s.params := rfl
@[simp] theorem writeByte_env (s : State) (a : Nat) (b : Byte) :
    (s.writeByte a b).env = s.env := rfl
@[simp] theorem writeByte_out (s : State) (a : Nat) (b : Byte) :
    (s.writeByte a b).out = s.out := rfl
@[simp] theorem writeByte_reg (s : State) (a : Nat) (b : Byte) (y : RegIdx) :
    (s.writeByte a b).reg y = s.reg y := rfl
@[simp] theorem writeByte_stackAt (s : State) (a : Nat) (b : Byte) (k : BitVec 4) :
    (s.writeByte a b).stackAt k = s.stackAt k := rfl
@[simp] theorem writeByte_pixel (s : State) (a : Nat) (b : Byte) (c : Fin 64) (r : Fin 32) :
    (s.writeByte a b).pixel c r = s.pixel c r := rfl

/-! ### The observers of what an update writes -/

theorem setReg_reg (s : State) (x : RegIdx) (b : Byte) (y : RegIdx) :
    (s.setReg x b).reg y = if y = x then b else s.reg y := by
  simp only [reg, setReg, Vector.getElem_set, Fin.ext_iff, eq_comm]

@[simp] theorem setReg_reg_same (s : State) (x : RegIdx) (b : Byte) : (s.setReg x b).reg x = b := by
  simp [setReg_reg]

theorem setReg_reg_other (s : State) {x y : RegIdx} (b : Byte) (h : y ≠ x) :
    (s.setReg x b).reg y = s.reg y := by
  simp [setReg_reg, h]

theorem setStackAt_stackAt (s : State) (j : BitVec 4) (w : Word) (k : BitVec 4) :
    (s.setStackAt j w).stackAt k = if k = j then w else s.stackAt k := by
  simp only [stackAt, setStackAt, Vector.getElem_set, BitVec.toNat_eq, eq_comm]

@[simp] theorem setFb_pixel (s : State) (g : Vector (Vector Bool 32) 64) (c : Fin 64) (r : Fin 32) :
    (s.setFb g).pixel c r = (g[c.val])[r.val] := rfl

/-! ### Composite updates, in terms of the primitive ones -/

@[simp] theorem advance_eq (s : State) : s.advance = s.setPc (s.pc + 2) := rfl

@[simp] theorem skipIf_eq (s : State) (c : Bool) :
    s.skipIf c = s.setPc (if c then s.pc + 4 else s.pc + 2) := rfl

@[simp] theorem setFlagged_eq (s : State) (f : Bool) (x : RegIdx) (b : Byte) :
    s.setFlagged f x b = (s.setReg regF (flagByte f)).setReg x b := rfl

@[simp] theorem push_eq (s : State) (w : Word) :
    s.push w = (s.setSp (s.sp + 1)).setStackAt (s.sp + 1) w := rfl

@[simp] theorem tickStep_eq (s : State) :
    s.tickStep = ((s.setDt (countDown s.dt)).setSt (countDown s.st)).setIpfCnt 0 := rfl

@[simp] theorem countStep_eq (s : State) : s.countStep = s.setIpfCnt (s.ipfCnt + 1) := rfl

@[simp] theorem beginStep_eq (s : State) :
    s.beginStep = (s.setOut Signals.quiet).setEnv { s.env with agenda := s.env.agenda.tail } := rfl

/-! ### writeBytes: every field but the one it writes -/

@[simp] theorem writeBytes_v (f : Nat → Byte) (ea n : Nat) (s : State) :
    (writeBytes f ea n s).v = s.v := by
  induction n <;> simp_all [writeBytes]
@[simp] theorem writeBytes_i (f : Nat → Byte) (ea n : Nat) (s : State) :
    (writeBytes f ea n s).i = s.i := by
  induction n <;> simp_all [writeBytes]
@[simp] theorem writeBytes_pc (f : Nat → Byte) (ea n : Nat) (s : State) :
    (writeBytes f ea n s).pc = s.pc := by
  induction n <;> simp_all [writeBytes]
@[simp] theorem writeBytes_stack (f : Nat → Byte) (ea n : Nat) (s : State) :
    (writeBytes f ea n s).stack = s.stack := by
  induction n <;> simp_all [writeBytes]
@[simp] theorem writeBytes_sp (f : Nat → Byte) (ea n : Nat) (s : State) :
    (writeBytes f ea n s).sp = s.sp := by
  induction n <;> simp_all [writeBytes]
@[simp] theorem writeBytes_fb (f : Nat → Byte) (ea n : Nat) (s : State) :
    (writeBytes f ea n s).fb = s.fb := by
  induction n <;> simp_all [writeBytes]
@[simp] theorem writeBytes_dt (f : Nat → Byte) (ea n : Nat) (s : State) :
    (writeBytes f ea n s).dt = s.dt := by
  induction n <;> simp_all [writeBytes]
@[simp] theorem writeBytes_st (f : Nat → Byte) (ea n : Nat) (s : State) :
    (writeBytes f ea n s).st = s.st := by
  induction n <;> simp_all [writeBytes]
@[simp] theorem writeBytes_mode (f : Nat → Byte) (ea n : Nat) (s : State) :
    (writeBytes f ea n s).mode = s.mode := by
  induction n <;> simp_all [writeBytes]
@[simp] theorem writeBytes_wx (f : Nat → Byte) (ea n : Nat) (s : State) :
    (writeBytes f ea n s).wx = s.wx := by
  induction n <;> simp_all [writeBytes]
@[simp] theorem writeBytes_fault (f : Nat → Byte) (ea n : Nat) (s : State) :
    (writeBytes f ea n s).fault = s.fault := by
  induction n <;> simp_all [writeBytes]
@[simp] theorem writeBytes_faultInfo (f : Nat → Byte) (ea n : Nat) (s : State) :
    (writeBytes f ea n s).faultInfo = s.faultInfo := by
  induction n <;> simp_all [writeBytes]
@[simp] theorem writeBytes_ipfCnt (f : Nat → Byte) (ea n : Nat) (s : State) :
    (writeBytes f ea n s).ipfCnt = s.ipfCnt := by
  induction n <;> simp_all [writeBytes]
@[simp] theorem writeBytes_divCnt (f : Nat → Byte) (ea n : Nat) (s : State) :
    (writeBytes f ea n s).divCnt = s.divCnt := by
  induction n <;> simp_all [writeBytes]
@[simp] theorem writeBytes_params (f : Nat → Byte) (ea n : Nat) (s : State) :
    (writeBytes f ea n s).params = s.params := by
  induction n <;> simp_all [writeBytes]
@[simp] theorem writeBytes_env (f : Nat → Byte) (ea n : Nat) (s : State) :
    (writeBytes f ea n s).env = s.env := by
  induction n <;> simp_all [writeBytes]
@[simp] theorem writeBytes_out (f : Nat → Byte) (ea n : Nat) (s : State) :
    (writeBytes f ea n s).out = s.out := by
  induction n <;> simp_all [writeBytes]
@[simp] theorem writeBytes_reg (f : Nat → Byte) (ea n : Nat) (s : State) (y : RegIdx) :
    (writeBytes f ea n s).reg y = s.reg y := by
  induction n <;> simp_all [writeBytes]
@[simp] theorem writeBytes_stackAt (f : Nat → Byte) (ea n : Nat) (s : State) (k : BitVec 4) :
    (writeBytes f ea n s).stackAt k = s.stackAt k := by
  induction n <;> simp_all [writeBytes]
@[simp] theorem writeBytes_pixel (f : Nat → Byte) (ea n : Nat) (s : State) (c : Fin 64) (r : Fin 32) :
    (writeBytes f ea n s).pixel c r = s.pixel c r := by
  induction n <;> simp_all [writeBytes]

/-! ### setRegs: every field but the one it writes -/

@[simp] theorem setRegs_i (f : Nat → Byte) (n : Nat) (s : State) :
    (setRegs f n s).i = s.i := by
  induction n <;> simp_all [setRegs]
@[simp] theorem setRegs_pc (f : Nat → Byte) (n : Nat) (s : State) :
    (setRegs f n s).pc = s.pc := by
  induction n <;> simp_all [setRegs]
@[simp] theorem setRegs_stack (f : Nat → Byte) (n : Nat) (s : State) :
    (setRegs f n s).stack = s.stack := by
  induction n <;> simp_all [setRegs]
@[simp] theorem setRegs_sp (f : Nat → Byte) (n : Nat) (s : State) :
    (setRegs f n s).sp = s.sp := by
  induction n <;> simp_all [setRegs]
@[simp] theorem setRegs_mem (f : Nat → Byte) (n : Nat) (s : State) :
    (setRegs f n s).mem = s.mem := by
  induction n <;> simp_all [setRegs]
@[simp] theorem setRegs_fb (f : Nat → Byte) (n : Nat) (s : State) :
    (setRegs f n s).fb = s.fb := by
  induction n <;> simp_all [setRegs]
@[simp] theorem setRegs_dt (f : Nat → Byte) (n : Nat) (s : State) :
    (setRegs f n s).dt = s.dt := by
  induction n <;> simp_all [setRegs]
@[simp] theorem setRegs_st (f : Nat → Byte) (n : Nat) (s : State) :
    (setRegs f n s).st = s.st := by
  induction n <;> simp_all [setRegs]
@[simp] theorem setRegs_mode (f : Nat → Byte) (n : Nat) (s : State) :
    (setRegs f n s).mode = s.mode := by
  induction n <;> simp_all [setRegs]
@[simp] theorem setRegs_wx (f : Nat → Byte) (n : Nat) (s : State) :
    (setRegs f n s).wx = s.wx := by
  induction n <;> simp_all [setRegs]
@[simp] theorem setRegs_fault (f : Nat → Byte) (n : Nat) (s : State) :
    (setRegs f n s).fault = s.fault := by
  induction n <;> simp_all [setRegs]
@[simp] theorem setRegs_faultInfo (f : Nat → Byte) (n : Nat) (s : State) :
    (setRegs f n s).faultInfo = s.faultInfo := by
  induction n <;> simp_all [setRegs]
@[simp] theorem setRegs_ipfCnt (f : Nat → Byte) (n : Nat) (s : State) :
    (setRegs f n s).ipfCnt = s.ipfCnt := by
  induction n <;> simp_all [setRegs]
@[simp] theorem setRegs_divCnt (f : Nat → Byte) (n : Nat) (s : State) :
    (setRegs f n s).divCnt = s.divCnt := by
  induction n <;> simp_all [setRegs]
@[simp] theorem setRegs_params (f : Nat → Byte) (n : Nat) (s : State) :
    (setRegs f n s).params = s.params := by
  induction n <;> simp_all [setRegs]
@[simp] theorem setRegs_env (f : Nat → Byte) (n : Nat) (s : State) :
    (setRegs f n s).env = s.env := by
  induction n <;> simp_all [setRegs]
@[simp] theorem setRegs_out (f : Nat → Byte) (n : Nat) (s : State) :
    (setRegs f n s).out = s.out := by
  induction n <;> simp_all [setRegs]
@[simp] theorem setRegs_stackAt (f : Nat → Byte) (n : Nat) (s : State) (k : BitVec 4) :
    (setRegs f n s).stackAt k = s.stackAt k := by
  induction n <;> simp_all [setRegs]
@[simp] theorem setRegs_pixel (f : Nat → Byte) (n : Nat) (s : State) (c : Fin 64) (r : Fin 32) :
    (setRegs f n s).pixel c r = s.pixel c r := by
  induction n <;> simp_all [setRegs]
@[simp] theorem setRegs_readByte (f : Nat → Byte) (n : Nat) (s : State) (k : Nat) :
    (setRegs f n s).readByte k = s.readByte k := by
  induction n <;> simp_all [setRegs]

end Sys2Proof.Machine.State
end

