-- ==== Sys2Proof/Laws/Display.lean ====
section
/-! SUPPORT. What the draw loops do, once: the column and row loops as one formula per pixel, and the collision
flag as the existence of a pixel that was on under a set sprite bit (spec/45_display.md R171, R173). -/

namespace Sys2Proof.Machine

/-- The pixel of a canvas. -/
def Canvas.pixel (p : Canvas) (c : Fin 64) (r : Fin 32) : Bool := (p.fb[c.val])[r.val]

/-- The sprite column that falls on pixel column c. -/
def colOf (vx : Byte) (c : Fin 64) : Nat := (c.val + 64 - vx.toNat % 64) % 64

/-- The sprite row that falls on pixel row r. -/
def rowOf (vy : Byte) (r : Fin 32) : Nat := (r.val + 32 - vy.toNat % 32) % 32

theorem toggle_pixel (p : Canvas) (tx c : Fin 64) (ty r : Fin 32) :
    (p.toggle tx ty).pixel c r = xor (p.pixel c r) (decide (c = tx) && decide (r = ty)) := by
  simp only [Canvas.pixel, Canvas.toggle, Vector.getElem_set, Fin.ext_iff]
  by_cases hc : tx.val = c.val
  · by_cases hr : ty.val = r.val
    · simp [hc, hr]
    · simp [hc, hr, Ne.symm hr]
  · simp [hc, Ne.symm hc]

theorem toggle_hit (p : Canvas) (tx : Fin 64) (ty : Fin 32) :
    (p.toggle tx ty).hit = (p.hit || p.pixel tx ty) := by
  simp [Canvas.toggle, Canvas.pixel]

theorem spriteBit_eq (b : Byte) (c : Nat) (hc : c < 8) : spriteBit b c = b.getLsbD (7 - c) := by
  have key : ∀ (b : Byte) (c : Fin 8), spriteBit b c.val = b.getLsbD (7 - c.val) := by decide
  exact key b ⟨c, hc⟩

theorem eq_drawCol_iff (vx : Byte) (c : Fin 64) (k : Nat) (hk : k < 64) :
    c = drawCol vx k ↔ colOf vx c = k := by
  have hc := c.isLt
  simp only [drawCol, colOf, Fin.ext_iff]
  omega

theorem eq_drawLine_iff (vy : Byte) (r : Fin 32) (k : Nat) (hk : k < 32) :
    r = drawLine vy k ↔ rowOf vy r = k := by
  have hr := r.isLt
  simp only [drawLine, rowOf, Fin.ext_iff]
  omega

/-- One row of the sprite, pixel by pixel. -/
theorem drawCols_pixel (b vx : Byte) (ty : Fin 32) (n : Nat) (hn : n ≤ 8) (p : Canvas) (c : Fin 64)
    (r : Fin 32) :
    (drawCols b vx ty n p).pixel c r =
      xor (p.pixel c r) (decide (r = ty) && decide (colOf vx c < n) && spriteBit b (colOf vx c)) := by
  induction n with
  | zero => simp [drawCols]
  | succ k ih =>
    have ih := ih (by omega)
    rw [drawCols]
    by_cases hcol : colOf vx c = k
    · have hck : c = drawCol vx k := (eq_drawCol_iff vx c k (by omega)).2 hcol
      by_cases hbit : spriteBit b k = true
      · rw [if_pos hbit, toggle_pixel, ih]
        subst hcol
        by_cases hr : r = ty <;> simp [hr, hbit, ← hck]
      · rw [if_neg hbit, ih]
        simp [hcol, hbit]
    · have hck : c ≠ drawCol vx k := fun h => hcol ((eq_drawCol_iff vx c k (by omega)).1 h)
      have hlt : (colOf vx c < k + 1) ↔ (colOf vx c < k) := by omega
      by_cases hbit : spriteBit b k = true
      · rw [if_pos hbit, toggle_pixel, ih]
        simp [hck, hlt]
      · rw [if_neg hbit, ih]
        simp [hlt]

theorem drawCol_colOf (vx : Byte) (k : Nat) (hk : k < 64) : colOf vx (drawCol vx k) = k :=
  (eq_drawCol_iff vx _ k hk).1 rfl

theorem drawLine_rowOf (vy : Byte) (k : Nat) (hk : k < 32) : rowOf vy (drawLine vy k) = k :=
  (eq_drawLine_iff vy _ k hk).1 rfl

/-- One row of the sprite: the collision. -/
theorem drawCols_hit (b vx : Byte) (ty : Fin 32) (n : Nat) (hn : n ≤ 8) (p : Canvas) :
    (drawCols b vx ty n p).hit = true ↔ p.hit = true ∨
      ∃ c, p.pixel c ty = true ∧ colOf vx c < n ∧ spriteBit b (colOf vx c) = true := by
  induction n with
  | zero => simp [drawCols]
  | succ k ih =>
    have ih := ih (by omega)
    have hold : (drawCols b vx ty k p).pixel (drawCol vx k) ty = p.pixel (drawCol vx k) ty := by
      rw [drawCols_pixel b vx ty k (by omega), drawCol_colOf vx k (by omega)]
      simp
    rw [drawCols]
    by_cases hbit : spriteBit b k = true
    · rw [if_pos hbit, toggle_hit, hold, Bool.or_eq_true, ih]
      constructor
      · rintro ((h | ⟨c, h1, h2, h3⟩) | h)
        · exact .inl h
        · exact .inr ⟨c, h1, by omega, h3⟩
        · refine .inr ⟨drawCol vx k, h, ?_⟩
          rw [drawCol_colOf vx k (by omega)]
          exact ⟨by omega, hbit⟩
      · rintro (h | ⟨c, h1, h2, h3⟩)
        · exact .inl (.inl h)
        · by_cases hk : colOf vx c = k
          · exact .inr ((eq_drawCol_iff vx c k (by omega)).2 hk ▸ h1)
          · exact .inl (.inr ⟨c, h1, by omega, h3⟩)
    · rw [if_neg hbit, ih]
      constructor
      · rintro (h | ⟨c, h1, h2, h3⟩)
        · exact .inl h
        · exact .inr ⟨c, h1, by omega, h3⟩
      · rintro (h | ⟨c, h1, h2, h3⟩)
        · exact .inl h
        · refine .inr ⟨c, h1, ?_, h3⟩
          by_cases hk : colOf vx c = k
          · exact absurd (hk ▸ h3) hbit
          · omega

/-- The bit the sprite has for a pixel. -/
def spriteMask (sprite : Nat → Byte) (vx vy : Byte) (n : Nat) (c : Fin 64) (r : Fin 32) : Bool :=
  decide (colOf vx c < 8) && decide (rowOf vy r < n) && spriteBit (sprite (rowOf vy r)) (colOf vx c)

/-- The whole sprite, pixel by pixel. -/
theorem drawRows_pixel (sprite : Nat → Byte) (vx vy : Byte) (n : Nat) (hn : n ≤ 32) (p : Canvas)
    (c : Fin 64) (r : Fin 32) :
    (drawRows sprite vx vy n p).pixel c r = xor (p.pixel c r) (spriteMask sprite vx vy n c r) := by
  induction n with
  | zero => simp [drawRows, spriteMask]
  | succ k ih =>
    have ih := ih (by omega)
    rw [drawRows, drawCols_pixel _ _ _ 8 (by omega), ih]
    simp only [spriteMask]
    by_cases hrow : rowOf vy r = k
    · have hrk : r = drawLine vy k := (eq_drawLine_iff vy r k (by omega)).2 hrow
      have hd : decide (r = drawLine vy k) = true := by simpa using hrk
      simp [hd, hrow]
    · have hrk : r ≠ drawLine vy k := fun h => hrow ((eq_drawLine_iff vy r k (by omega)).1 h)
      have hlt : (rowOf vy r < k + 1) ↔ (rowOf vy r < k) := by omega
      simp [hrk, hlt]

/-- The whole sprite: the collision. -/
theorem drawRows_hit (sprite : Nat → Byte) (vx vy : Byte) (n : Nat) (hn : n ≤ 32) (p : Canvas) :
    (drawRows sprite vx vy n p).hit = true ↔ p.hit = true ∨
      ∃ c r, p.pixel c r = true ∧ spriteMask sprite vx vy n c r = true := by
  induction n with
  | zero => simp [drawRows, spriteMask]
  | succ k ih =>
    have ih := ih (by omega)
    have hold : ∀ c, (drawRows sprite vx vy k p).pixel c (drawLine vy k) = p.pixel c (drawLine vy k) := by
      intro c
      rw [drawRows_pixel _ _ _ k (by omega), spriteMask, drawLine_rowOf vy k (by omega)]
      simp
    rw [drawRows, drawCols_hit _ _ _ 8 (by omega), ih]
    constructor
    · rintro ((h | ⟨c, r, h1, h2⟩) | ⟨c, h1, h2, h3⟩)
      · exact .inl h
      · refine .inr ⟨c, r, h1, ?_⟩
        simp only [spriteMask, Bool.and_eq_true, decide_eq_true_eq] at h2 ⊢
        exact ⟨⟨h2.1.1, by omega⟩, h2.2⟩
      · refine .inr ⟨c, drawLine vy k, (hold c) ▸ h1, ?_⟩
        simp only [spriteMask, drawLine_rowOf vy k (by omega : k < 32), Bool.and_eq_true,
          decide_eq_true_eq]
        exact ⟨⟨h2, by omega⟩, h3⟩
    · rintro (h | ⟨c, r, h1, h2⟩)
      · exact .inl (.inl h)
      · simp only [spriteMask, Bool.and_eq_true, decide_eq_true_eq] at h2
        by_cases hrow : rowOf vy r = k
        · have hrk : r = drawLine vy k := (eq_drawLine_iff vy r k (by omega)).2 hrow
          refine .inr ⟨c, ?_, h2.1.1, hrow ▸ h2.2⟩
          rw [hold c, ← hrk]
          exact h1
        · refine .inl (.inr ⟨c, r, h1, ?_⟩)
          simp only [spriteMask, Bool.and_eq_true, decide_eq_true_eq]
          exact ⟨⟨h2.1.1, by omega⟩, h2.2⟩

end Sys2Proof.Machine
end

