-- ==== Sys2Proof/Laws/Memory.lean ====
section
/-! SUPPORT. Memory: a read after a write, the canonical form, and the closed form of a block of writes
(spec/20_memory.md R55, R57, R62). -/

namespace Sys2Proof.Machine

/-! ### Read after write -/

theorem read_erase (p : Params) (a : Nat) (m : List Host.Cell) (b : Nat) :
    Memory.read p (Memory.erase a m) b = if b = a then resetByte p b else Memory.read p m b := by
  induction m with
  | nil => simp [Memory.erase, Memory.read]
  | cons c t ih =>
    obtain ⟨d, w⟩ := c
    by_cases had : a = d
    · subst had
      by_cases hb : b = a <;> simp_all [Memory.erase, Memory.read]
    · by_cases hbd : b = d
      · have hba : b ≠ a := by omega
        simp [Memory.erase, Memory.read, had, hbd, Ne.symm had]
      · simp only [Memory.erase, had, if_false, Memory.read, hbd]
        exact ih

theorem read_insert (p : Params) (a : Nat) (v : Byte) (m : List Host.Cell)
    (hm : Memory.erase a m = m) (b : Nat) :
    Memory.read p (Memory.insert a v m) b = if b = a then v else Memory.read p m b := by
  induction m with
  | nil => simp [Memory.insert, Memory.read]
  | cons c t ih =>
    obtain ⟨d, w⟩ := c
    have hcons : a ≠ d ∧ Memory.erase a t = t := by
      by_cases had : a = d
      · subst had
        have hlen : ∀ u : List Host.Cell, (Memory.erase a u).length ≤ u.length := by
          intro u
          induction u with
          | nil => simp [Memory.erase]
          | cons c u ihu =>
            simp only [Memory.erase]
            split <;> simp <;> omega
        have h1 := congrArg List.length hm
        have h2 := hlen t
        simp only [Memory.erase, if_true, List.length_cons] at h1
        omega
      · exact ⟨had, by simpa [Memory.erase, had] using hm⟩
    by_cases hlt : a < d
    · simp [Memory.insert, hlt, Memory.read]
    · simp only [Memory.insert, hlt, if_false, Memory.read]
      by_cases hbd : b = d
      · have hba : b ≠ a := fun h => hcons.1 (h ▸ hbd)
        simp [hbd, Ne.symm hcons.1]
      · simp only [hbd, if_false]
        exact ih hcons.2

theorem erase_erase (a : Nat) (m : List Host.Cell) : Memory.erase a (Memory.erase a m) = Memory.erase a m := by
  induction m with
  | nil => rfl
  | cons c t ih =>
    obtain ⟨d, w⟩ := c
    by_cases had : a = d <;> simp [Memory.erase, had, ih]
    subst had
    exact ih

/-- A read after a write: the value written there, everything else as before. -/
theorem read_write (p : Params) (a : Nat) (v : Byte) (m : List Host.Cell) (b : Nat) :
    Memory.read p (Memory.write p a v m) b = if b = a then v else Memory.read p m b := by
  by_cases hv : v = resetByte p a
  · rw [Memory.write, if_pos hv, read_erase]
    by_cases hb : b = a
    · simp [hb, hv]
    · simp [hb]
  · rw [Memory.write, if_neg hv, read_insert p a v _ (erase_erase a m), read_erase]
    by_cases hb : b = a <;> simp [hb]

/-! ### The canonical form -/

theorem wfFrom_mono (p : Params) {lo lo' : Nat} (h : lo' ≤ lo) (m : List Host.Cell)
    (hm : Memory.wfFrom p lo m = true) : Memory.wfFrom p lo' m = true := by
  cases m with
  | nil => rfl
  | cons c t =>
    obtain ⟨a, v⟩ := c
    simp only [Memory.wfFrom, Bool.and_eq_true, decide_eq_true_eq] at hm ⊢
    exact ⟨⟨⟨by omega, hm.1.1.2⟩, hm.1.2⟩, hm.2⟩

theorem wfFrom_erase (p : Params) (a : Nat) (m : List Host.Cell) (lo : Nat)
    (hm : Memory.wfFrom p lo m = true) : Memory.wfFrom p lo (Memory.erase a m) = true := by
  induction m generalizing lo with
  | nil => rfl
  | cons c t ih =>
    obtain ⟨d, w⟩ := c
    simp only [Memory.wfFrom, Bool.and_eq_true, decide_eq_true_eq] at hm
    by_cases had : a = d
    · simp only [Memory.erase, had, if_true]
      exact wfFrom_mono p (by omega) _ (had ▸ ih (d + 1) hm.2)
    · simp only [Memory.erase, had, if_false, Memory.wfFrom, Bool.and_eq_true, decide_eq_true_eq]
      exact ⟨hm.1, ih (d + 1) hm.2⟩

theorem wfFrom_insert (p : Params) (a : Nat) (v : Byte) (ha : a < memSize)
    (hv : v ≠ resetByte p a) (m : List Host.Cell) (lo : Nat) (hlo : lo ≤ a)
    (hm : Memory.wfFrom p lo m = true) (hfree : Memory.erase a m = m) :
    Memory.wfFrom p lo (Memory.insert a v m) = true := by
  induction m generalizing lo with
  | nil => simp [Memory.insert, Memory.wfFrom, hlo, ha, hv]
  | cons c t ih =>
    obtain ⟨d, w⟩ := c
    have hcons : a ≠ d ∧ Memory.erase a t = t := by
      by_cases had : a = d
      · subst had
        have h1 := wfFrom_erase p a _ _ hm
        simp only [Memory.wfFrom, Bool.and_eq_true, decide_eq_true_eq] at hm
        have h2 : Memory.read p (Memory.erase a ((a, w) :: t)) a = resetByte p a := by
          simp [read_erase]
        rw [hfree] at h2
        exact absurd (by simpa [Memory.read] using h2) hm.1.2
      · exact ⟨had, by simpa [Memory.erase, had] using hfree⟩
    have hc := hm
    simp only [Memory.wfFrom, Bool.and_eq_true, decide_eq_true_eq] at hc
    by_cases hlt : a < d
    · simp only [Memory.insert, hlt, if_true, Memory.wfFrom, Bool.and_eq_true, decide_eq_true_eq]
      exact ⟨⟨⟨hlo, ha⟩, hv⟩, ⟨⟨by omega, hc.1.1.2⟩, hc.1.2⟩, hc.2⟩
    · simp only [Memory.insert, hlt, if_false, Memory.wfFrom, Bool.and_eq_true, decide_eq_true_eq]
      exact ⟨hc.1, ih (d + 1) (by have := hcons.1; omega) hc.2 hcons.2⟩

theorem wfFrom_write (p : Params) (a : Nat) (v : Byte) (ha : a < memSize) (m : List Host.Cell)
    (lo : Nat) (hlo : lo ≤ a) (hm : Memory.wfFrom p lo m = true) :
    Memory.wfFrom p lo (Memory.write p a v m) = true := by
  have he := wfFrom_erase p a m lo hm
  by_cases hv : v = resetByte p a
  · simpa [Memory.write, hv] using he
  · simpa [Memory.write, hv] using
      wfFrom_insert p a v ha hv _ lo hlo he (erase_erase a m)

/-- Every write of memory keeps the canonical form. -/
theorem writeByte_keeps_wf (s : State) (a : Nat) (b : Byte) (h : Memory.wf s.params s.mem = true) :
    Memory.wf s.params (s.writeByte a b).mem = true :=
  wfFrom_write s.params (a % memSize) b (Nat.mod_lt _ (by decide)) s.mem 0 (Nat.zero_le _) h

theorem writeBytes_keeps_wf (f : Nat → Byte) (ea n : Nat) (s : State)
    (h : Memory.wf s.params s.mem = true) : Memory.wf s.params (State.writeBytes f ea n s).mem = true := by
  induction n with
  | zero => exact h
  | succ n ih =>
    have hk := writeByte_keeps_wf (State.writeBytes f ea n s) (ea + n) (f n) (by simpa using ih)
    simpa [State.writeBytes] using hk

theorem read_below (p : Params) (lo a : Nat) (t : List Host.Cell) (h : Memory.wfFrom p lo t = true)
    (hlt : a < lo) : Memory.read p t a = resetByte p a := by
  induction t generalizing lo with
  | nil => rfl
  | cons c t ih =>
    obtain ⟨d, w⟩ := c
    simp only [Memory.wfFrom, Bool.and_eq_true, decide_eq_true_eq] at h
    have hne : a ≠ d := by omega
    simp only [Memory.read, hne, if_false]
    exact ih (d + 1) h.2 (by omega)

/-- Equal memories are equal data: two canonical lists that read alike are the same list. -/
theorem memory_ext (p : Params) (m n : List Host.Cell) (lo lo' : Nat) (hm : Memory.wfFrom p lo m = true)
    (hn : Memory.wfFrom p lo' n = true) (h : ∀ a, Memory.read p m a = Memory.read p n a) : m = n := by
  induction m generalizing n lo lo' with
  | nil =>
    cases n with
    | nil => rfl
    | cons c t =>
      obtain ⟨d, w⟩ := c
      simp only [Memory.wfFrom, Bool.and_eq_true, decide_eq_true_eq] at hn
      exact absurd (by simpa [Memory.read] using (h d).symm) hn.1.2
  | cons c t ih =>
    obtain ⟨d, w⟩ := c
    have hm' := hm
    simp only [Memory.wfFrom, Bool.and_eq_true, decide_eq_true_eq] at hm'
    cases n with
    | nil => exact absurd (by simpa [Memory.read] using h d) hm'.1.2
    | cons c' t' =>
      obtain ⟨d', w'⟩ := c'
      have hn' := hn
      simp only [Memory.wfFrom, Bool.and_eq_true, decide_eq_true_eq] at hn'
      rcases Nat.lt_trichotomy d d' with hlt | heq | hgt
      · have hr := h d
        have hne : d ≠ d' := by omega
        rw [show Memory.read p ((d', w') :: t') d = resetByte p d by
          simpa [Memory.read, hne] using read_below p (d' + 1) d t' hn'.2 (by omega)] at hr
        exact absurd (by simpa [Memory.read] using hr) hm'.1.2
      · subst heq
        have hw : w = w' := by simpa [Memory.read] using h d
        subst hw
        have ht : t = t' := by
          refine ih t' (d + 1) (d + 1) hm'.2 hn'.2 fun a => ?_
          by_cases had : a = d
          · subst had
            rw [read_below p (a + 1) a t hm'.2 (by omega),
              read_below p (a + 1) a t' hn'.2 (by omega)]
          · simpa [Memory.read, had] using h a
        rw [ht]
      · have hr := h d'
        have hne : d' ≠ d := by omega
        rw [show Memory.read p ((d, w) :: t) d' = resetByte p d' by
          simpa [Memory.read, hne] using read_below p (d + 1) d' t hm'.2 (by omega)] at hr
        exact absurd (by simpa [Memory.read] using hr.symm) hn'.1.2

/-! ### The byte operations of the state -/

theorem readByte_writeByte (s : State) (a : Nat) (b : Byte) (k : Nat) :
    (s.writeByte a b).readByte k = if k % memSize = a % memSize then b else s.readByte k := by
  simp only [State.readByte, State.writeByte]
  exact read_write s.params _ b s.mem _

theorem readByte_mod (s : State) (k : Nat) : s.readByte (k % memSize) = s.readByte k := by
  simp [State.readByte]

/-- A block of writes, outside its bytes. -/
theorem readByte_writeBytes_other (f : Nat → Byte) (ea n : Nat) (s : State) (k : Nat)
    (hk : ∀ j, j < n → k % memSize ≠ (ea + j) % memSize) :
    (State.writeBytes f ea n s).readByte k = s.readByte k := by
  induction n with
  | zero => rfl
  | succ n ih =>
    rw [State.writeBytes, readByte_writeByte, if_neg (hk n (by omega))]
    exact ih fun j hj => hk j (by omega)

/-- A block of at most 4096 writes, at the byte of offset j. -/
theorem readByte_writeBytes_same (f : Nat → Byte) (ea n : Nat) (s : State) (hn : n ≤ memSize) (j : Nat)
    (hj : j < n) : (State.writeBytes f ea n s).readByte (ea + j) = f j := by
  induction n with
  | zero => omega
  | succ n ih =>
    rw [State.writeBytes, readByte_writeByte]
    by_cases hjn : j = n
    · simp [hjn]
    · rw [if_neg (by simp only [memSize] at hn ⊢; omega)]
      exact ih (by omega) (by omega)

/-- A block of register writes: V[k] for k below n, the others kept. -/
theorem setRegs_reg (f : Nat → Byte) (n : Nat) (hn : n ≤ 16) (s : State) (y : RegIdx) :
    (State.setRegs f n s).reg y = if y.val < n then f y.val else s.reg y := by
  induction n with
  | zero => simp [State.setRegs]
  | succ n ih =>
    rw [State.setRegs, State.setReg_reg, ih (by omega)]
    have hidx : (y = regIdx n) ↔ y.val = n := by
      rw [Fin.ext_iff]
      simp only [regIdx, Nat.mod_eq_of_lt (show n < 16 by omega)]
    by_cases hy : y.val = n
    · simp [hidx, hy]
    · rw [if_neg (by simpa [hidx] using hy)]
      by_cases hlt : y.val < n
      · rw [if_pos hlt, if_pos (by omega)]
      · rw [if_neg hlt, if_neg (by omega)]

end Sys2Proof.Machine
end

