-- ==== Sys2Proof/Laws/Operands.lean ====
section
/-! SUPPORT. The address checks in the spec's words, key indices and digits, one lemma per operand form
(spec/20_memory.md R55, R56; spec/40_pipeline.md R102; spec/42_skip.md R134). -/

namespace Sys2Proof.Machine

theorem inBounds_iff (s : State) (ea : Nat) :
    s.inBounds ea = true ↔ s.params.memOob = .wrap ∨ ea ≤ 0xFFF := by
  cases hp : s.params.memOob <;> simp [State.inBounds, hp]

theorem blockInBounds_iff (s : State) (n : Nat) : s.blockInBounds n = true ↔ s.BlockFits n := by
  induction n with
  | zero => simp [State.blockInBounds, State.BlockFits]
  | succ n ih =>
    rw [State.blockInBounds, Bool.and_eq_true, ih, inBounds_iff]
    simp only [State.BlockFits, State.dataAddr]
    by_cases hp : s.params.memOob = .wrap
    · simp [hp]
    · simp only [hp, false_or]
      omega

theorem fetchInBounds_iff (s : State) : s.fetchInBounds = true ↔ s.FetchFits := by
  simp only [State.fetchInBounds, State.FetchFits, Bool.and_eq_true, inBounds_iff]
  by_cases hp : s.params.memOob = .wrap
  · simp [hp]
  · simp only [hp, false_or]
    omega

theorem canRun_iff (s : State) : s.canRun = true ↔ s.Enabled := by
  simp [State.canRun, State.Enabled]

theorem memBoundsInfo_toNat (s : State) :
    s.memBoundsInfo.toNat = if s.i.toNat > 0xFFF then s.i.toNat else 0x1000 := by
  have hi := s.i.isLt
  rw [State.memBoundsInfo]
  split
  · simp only [BitVec.toNat_setWidth]
    omega
  · rfl

/-- Under FAULT a block that fits has its bytes at their exact addresses. -/
theorem cellAddr_of_fault (s : State) (n k : Nat) (hp : s.params.memOob = .fault) (h : s.BlockFits n)
    (hk : k < n) : s.cellAddr k = s.i.toNat + k := by
  rcases h with h | h | h
  · rw [hp] at h
    cases h
  · omega
  · simp only [State.cellAddr, State.dataAddr, memSize]
    omega

theorem keyIndex_some (s : State) (vx : Byte) (h : vx.toNat ≤ 0xF ∨ s.params.keyIndex = .mask) :
    s.keyIndex vx = some (regIdx vx.toNat) := by
  rw [State.keyIndex]
  split
  · rcases h with h | h
    · omega
    · simp [h]
  · rfl

theorem keyIndex_none (s : State) (vx : Byte) (h1 : vx.toNat > 0xF) (h2 : s.params.keyIndex = .fault) :
    s.keyIndex vx = none := by
  simp [State.keyIndex, h1, h2]

theorem bcdDigit_toNat (b : Byte) :
    (bcdDigit b 0).toNat = b.toNat / 100 ∧ (bcdDigit b 1).toNat = b.toNat / 10 % 10 ∧
    (bcdDigit b 2).toNat = b.toNat % 10 := by
  have hb := b.isLt
  simp only [bcdDigit, BitVec.toNat_ofNat]
  omega

theorem countDown_toNat (b : Byte) : (countDown b).toNat = b.toNat - 1 := by
  have key : ∀ b : Byte, (countDown b).toNat = b.toNat - 1 := by decide
  exact key b

theorem wordOfBytes_toNat (hi lo : Byte) : (wordOfBytes hi lo).toNat = hi.toNat * 256 + lo.toNat := by
  have hl := lo.isLt
  rw [wordOfBytes, BitVec.toNat_append, Nat.shiftLeft_eq, ← Nat.shiftLeft_eq, ← Nat.shiftLeft_add_eq_or_of_lt hl,
    Nat.shiftLeft_eq]

end Sys2Proof.Machine
end

