-- ==== Sys2Proof/Laws/PerInstr.lean ====
section
/-! SUPPORT. One family of facts about each instruction as syntax: the word it encodes to is a word of its own
row of the opcode table, under both masks (spec/30_encoding.md R75, R76). -/

namespace Sys2Proof.Laws.EncodesToItsRow

/-- The encoding of a well-formed instruction matches its row. -/
def Statement (i : Instr) : Prop :=
  i.wellFormed = true → encode i &&& i.row.mask = i.row.mtch ∧ encode i &&& i.row.lenientMask = i.row.mtch

theorem cls : Statement .cls := fun _ => by decide

theorem ret : Statement .ret := fun _ => by decide

theorem jp (nnn : Addr) : Statement (.jp nnn) := fun _ =>
  ⟨wordA_row _ (by decide) nnn _ rfl, wordA_row _ (by decide) nnn _ rfl⟩

theorem call (nnn : Addr) : Statement (.call nnn) := fun _ =>
  ⟨wordA_row _ (by decide) nnn _ rfl, wordA_row _ (by decide) nnn _ rfl⟩

theorem seVxKk (x : RegIdx) (kk : Byte) : Statement (.seVxKk x kk) := fun _ =>
  ⟨wordXK_row _ (by decide) x kk _ rfl, wordXK_row _ (by decide) x kk _ rfl⟩

theorem sneVxKk (x : RegIdx) (kk : Byte) : Statement (.sneVxKk x kk) := fun _ =>
  ⟨wordXK_row _ (by decide) x kk _ rfl, wordXK_row _ (by decide) x kk _ rfl⟩

theorem seVxVy (x y : RegIdx) : Statement (.seVxVy x y) := fun _ =>
  ⟨wordXY_row _ (by decide) x y _ (by decide) _ rfl, wordXYN_row _ (by decide) x y _ (by decide) _ rfl⟩

theorem ldVxKk (x : RegIdx) (kk : Byte) : Statement (.ldVxKk x kk) := fun _ =>
  ⟨wordXK_row _ (by decide) x kk _ rfl, wordXK_row _ (by decide) x kk _ rfl⟩

theorem addVxKk (x : RegIdx) (kk : Byte) : Statement (.addVxKk x kk) := fun _ =>
  ⟨wordXK_row _ (by decide) x kk _ rfl, wordXK_row _ (by decide) x kk _ rfl⟩

theorem ldVxVy (x y : RegIdx) : Statement (.ldVxVy x y) := fun _ =>
  ⟨wordXY_row _ (by decide) x y _ (by decide) _ rfl, wordXY_row _ (by decide) x y _ (by decide) _ rfl⟩

theorem or (x y : RegIdx) : Statement (.or x y) := fun _ =>
  ⟨wordXY_row _ (by decide) x y _ (by decide) _ rfl, wordXY_row _ (by decide) x y _ (by decide) _ rfl⟩

theorem and (x y : RegIdx) : Statement (.and x y) := fun _ =>
  ⟨wordXY_row _ (by decide) x y _ (by decide) _ rfl, wordXY_row _ (by decide) x y _ (by decide) _ rfl⟩

theorem xor (x y : RegIdx) : Statement (.xor x y) := fun _ =>
  ⟨wordXY_row _ (by decide) x y _ (by decide) _ rfl, wordXY_row _ (by decide) x y _ (by decide) _ rfl⟩

theorem addVxVy (x y : RegIdx) : Statement (.addVxVy x y) := fun _ =>
  ⟨wordXY_row _ (by decide) x y _ (by decide) _ rfl, wordXY_row _ (by decide) x y _ (by decide) _ rfl⟩

theorem sub (x y : RegIdx) : Statement (.sub x y) := fun _ =>
  ⟨wordXY_row _ (by decide) x y _ (by decide) _ rfl, wordXY_row _ (by decide) x y _ (by decide) _ rfl⟩

theorem shr (x y : RegIdx) : Statement (.shr x y) := fun _ =>
  ⟨wordXY_row _ (by decide) x y _ (by decide) _ rfl, wordXY_row _ (by decide) x y _ (by decide) _ rfl⟩

theorem subn (x y : RegIdx) : Statement (.subn x y) := fun _ =>
  ⟨wordXY_row _ (by decide) x y _ (by decide) _ rfl, wordXY_row _ (by decide) x y _ (by decide) _ rfl⟩

theorem shl (x y : RegIdx) : Statement (.shl x y) := fun _ =>
  ⟨wordXY_row _ (by decide) x y _ (by decide) _ rfl, wordXY_row _ (by decide) x y _ (by decide) _ rfl⟩

theorem sneVxVy (x y : RegIdx) : Statement (.sneVxVy x y) := fun _ =>
  ⟨wordXY_row _ (by decide) x y _ (by decide) _ rfl, wordXYN_row _ (by decide) x y _ (by decide) _ rfl⟩

theorem ldI (nnn : Addr) : Statement (.ldI nnn) := fun _ =>
  ⟨wordA_row _ (by decide) nnn _ rfl, wordA_row _ (by decide) nnn _ rfl⟩

theorem jpV0 (nnn : Addr) : Statement (.jpV0 nnn) := fun _ =>
  ⟨wordA_row _ (by decide) nnn _ rfl, wordA_row _ (by decide) nnn _ rfl⟩

theorem rnd (x : RegIdx) (kk : Byte) : Statement (.rnd x kk) := fun _ =>
  ⟨wordXK_row _ (by decide) x kk _ rfl, wordXK_row _ (by decide) x kk _ rfl⟩

theorem drw (x y : RegIdx) (n : Nat) : Statement (.drw x y n) := fun h =>
  have hn : n < 16 := by
    simp only [Instr.wellFormed, decide_eq_true_eq] at h
    omega
  ⟨wordXYN_row _ (by decide) x y n hn _ rfl, wordXYN_row _ (by decide) x y n hn _ rfl⟩

theorem skp (x : RegIdx) : Statement (.skp x) := fun _ =>
  ⟨wordX_row _ (by decide) x _ _ rfl, wordX_row _ (by decide) x _ _ rfl⟩

theorem sknp (x : RegIdx) : Statement (.sknp x) := fun _ =>
  ⟨wordX_row _ (by decide) x _ _ rfl, wordX_row _ (by decide) x _ _ rfl⟩

theorem ldVxDt (x : RegIdx) : Statement (.ldVxDt x) := fun _ =>
  ⟨wordX_row _ (by decide) x _ _ rfl, wordX_row _ (by decide) x _ _ rfl⟩

theorem ldVxK (x : RegIdx) : Statement (.ldVxK x) := fun _ =>
  ⟨wordX_row _ (by decide) x _ _ rfl, wordX_row _ (by decide) x _ _ rfl⟩

theorem ldDtVx (x : RegIdx) : Statement (.ldDtVx x) := fun _ =>
  ⟨wordX_row _ (by decide) x _ _ rfl, wordX_row _ (by decide) x _ _ rfl⟩

theorem ldStVx (x : RegIdx) : Statement (.ldStVx x) := fun _ =>
  ⟨wordX_row _ (by decide) x _ _ rfl, wordX_row _ (by decide) x _ _ rfl⟩

theorem addIVx (x : RegIdx) : Statement (.addIVx x) := fun _ =>
  ⟨wordX_row _ (by decide) x _ _ rfl, wordX_row _ (by decide) x _ _ rfl⟩

theorem ldFVx (x : RegIdx) : Statement (.ldFVx x) := fun _ =>
  ⟨wordX_row _ (by decide) x _ _ rfl, wordX_row _ (by decide) x _ _ rfl⟩

theorem ldBVx (x : RegIdx) : Statement (.ldBVx x) := fun _ =>
  ⟨wordX_row _ (by decide) x _ _ rfl, wordX_row _ (by decide) x _ _ rfl⟩

theorem ldMemVx (x : RegIdx) : Statement (.ldMemVx x) := fun _ =>
  ⟨wordX_row _ (by decide) x _ _ rfl, wordX_row _ (by decide) x _ _ rfl⟩

theorem ldVxMem (x : RegIdx) : Statement (.ldVxMem x) := fun _ =>
  ⟨wordX_row _ (by decide) x _ _ rfl, wordX_row _ (by decide) x _ _ rfl⟩

end Sys2Proof.Laws.EncodesToItsRow
end

