-- ==== Sys2Proof/Laws/Step.lean ====
section
/-! SUPPORT. What one step can do, once: every way a step answers a next state (spec/40_pipeline.md R109, R110),
and every way an instruction step does. -/

namespace Sys2Proof.Machine

/-- An instruction step ends in the fetch fault, in the unknown-opcode report, or in exec of the decoded
instruction. -/
theorem instructionStep_cases {s t : State} (h : instructionStep s = .next t) :
    (¬ s.FetchFits ∧ t = s.countStep.raiseFault .fetchBounds (s.pc.setWidth 17)) ∨
    (s.FetchFits ∧ (∃ e, decode s.params.decodeLenient s.fetchWord = .error e) ∧
      t = s.countStep.reportUnknown s.fetchWord) ∨
    (s.FetchFits ∧ ∃ i, decode s.params.decodeLenient s.fetchWord = .ok i ∧
      exec i s.countStep = .next t) := by
  simp only [instructionStep] at h
  have hfit : (s.countStep).fetchInBounds = true ↔ s.FetchFits := fetchInBounds_iff s
  split at h
  · rename_i hf
    have hf := hfit.1 hf
    split at h
    · rename_i i hd
      exact .inr (.inr ⟨hf, i, hd, h⟩)
    · rename_i e hd
      injection h with h
      exact .inr (.inl ⟨hf, ⟨e, hd⟩, h.symm⟩)
  · rename_i hf
    injection h with h
    exact .inl ⟨fun hff => hf (hfit.2 hff), h.symm⟩

/-- Every way a step answers a next state. -/
theorem step_cases {s t : State} (h : step s = .next t) :
    (s.Enabled ∧ s.InstrNext ∧ instructionStep s.beginStep = .next t) ∨
    (¬ s.Enabled ∧ (∃ rest, s.env.agenda = .instr :: rest) ∧ t = s.beginStep) ∨
    (¬ s.Enabled ∧ s.env.agenda = [] ∧ t = s.beginStep.passTime) ∨
    (s.params.divider = none ∧ (∃ rest, s.env.agenda = .tick :: rest) ∧ t = s.beginStep.tickStep) ∨
    (∃ d, s.params.divider = some d ∧ (∃ rest, s.env.agenda = .clock :: rest) ∧
      t = s.beginStep.clockStep d) ∨
    (∃ k, (∃ rest, s.env.agenda = .keyEdge k :: rest) ∧ t = s.beginStep.keyEdgeStep k) ∨
    (∃ levels, (∃ rest, s.env.agenda = .keys levels :: rest) ∧
      t = s.beginStep.setEnv { s.beginStep.env with key := levels }) ∨
    ((∃ rest, s.env.agenda = .reset :: rest) ∧ t = s.beginStep.resetStep) ∨
    (s.mode = .idle ∧ (∃ rest, s.env.agenda = .start :: rest) ∧ t = s.beginStep.setMode .run) ∨
    (∃ rom, s.mode = .idle ∧ (∃ rest, s.env.agenda = .load rom :: rest) ∧
      ((rom.length ≤ maxRom ∧
          t = (State.writeBytes (fun i => rom.getD i 0) progBase rom.length s.beginStep).setOut
            { s.beginStep.out with loadResult := some .success }) ∨
       (maxRom < rom.length ∧
          t = s.beginStep.setOut { s.beginStep.out with loadResult := some .tooLarge }))) := by
  have hrun := canRun_iff s
  simp only [step, nextStep] at h
  split at h
  · rename_i e rest ha
    cases e with
    | instr =>
      simp only [takeEvent] at h
      split at h
      · rename_i hc
        exact .inl ⟨hrun.1 hc, .inr ⟨rest, ha⟩, h⟩
      · rename_i hc
        injection h with h
        exact .inr (.inl ⟨fun he => hc (hrun.2 he), ⟨rest, ha⟩, h.symm⟩)
    | tick =>
      simp only [takeEvent, State.tickStrobe] at h
      split at h
      · rename_i hd
        injection h with h
        exact .inr (.inr (.inr (.inl ⟨hd, ⟨rest, ha⟩, h.symm⟩)))
      · cases h
    | clock =>
      simp only [takeEvent, State.clockCycle] at h
      split at h
      · cases h
      · rename_i d hd
        injection h with h
        exact .inr (.inr (.inr (.inr (.inl ⟨d, hd, ⟨rest, ha⟩, h.symm⟩))))
    | keyEdge k =>
      injection h with h
      exact .inr (.inr (.inr (.inr (.inr (.inl ⟨k, ⟨rest, ha⟩, h.symm⟩)))))
    | keys levels =>
      injection h with h
      exact .inr (.inr (.inr (.inr (.inr (.inr (.inl ⟨levels, ⟨rest, ha⟩, h.symm⟩))))))
    | reset =>
      injection h with h
      exact .inr (.inr (.inr (.inr (.inr (.inr (.inr (.inl ⟨⟨rest, ha⟩, h.symm⟩)))))))
    | start =>
      simp only [takeEvent, State.startStep] at h
      split at h
      · rename_i hm
        injection h with h
        exact .inr (.inr (.inr (.inr (.inr (.inr (.inr (.inr (.inl ⟨hm, ⟨rest, ha⟩, h.symm⟩))))))))
      all_goals cases h
    | load rom =>
      simp only [takeEvent, State.loadStep] at h
      split at h
      · rename_i hm
        refine .inr (.inr (.inr (.inr (.inr (.inr (.inr (.inr (.inr ⟨rom, hm, ⟨rest, ha⟩, ?_⟩))))))))
        split at h
        · rename_i hl
          injection h with h
          exact .inl ⟨hl, h.symm⟩
        · rename_i hl
          injection h with h
          exact .inr ⟨by omega, h.symm⟩
      all_goals cases h
  · rename_i ha
    split at h
    · rename_i hc
      exact .inl ⟨hrun.1 hc, .inl ha, h⟩
    · rename_i hc
      injection h with h
      exact .inr (.inr (.inl ⟨fun he => hc (hrun.2 he), ha, h.symm⟩))

/-- A clock cycle at which a tick is due is a tick, and the count starts again. -/
theorem clockStep_of_due (s : State) (d : Nat) (hd : s.params.divider = some d) (h : s.tickDue = true) :
    s.clockStep d = s.tickStep.setDivCnt 0 := by
  simp only [State.tickDue, hd, decide_eq_true_eq] at h
  exact if_pos h

/-- Any other clock cycle only counts. -/
theorem clockStep_of_not_due (s : State) (d : Nat) (hd : s.params.divider = some d) (h : s.tickDue = false) :
    s.clockStep d = s.setDivCnt (s.divCnt + 1) := by
  simp only [State.tickDue, hd, decide_eq_false_iff_not] at h
  exact if_neg h

/-- Without a divider every beat of the timer driver makes a tick. -/
theorem tickDue_of_strobe (s : State) (hd : s.params.divider = none) : s.tickDue = true := by
  simp only [State.tickDue, hd]

/-- A run of k + 1 steps is a step and a run of k. -/
theorem run_succ (k : Nat) (s t : State) (h : step s = .next t) :
    Host.Core.run core (k + 1) s = Host.Core.run core k t := by
  have hs : core.step s = .next t := h
  simp only [Host.Core.run, hs]

end Sys2Proof.Machine
end

