-- ==== Sys2Proof/Tests/Slice0.lean ====
section
/-! SUPPORT. Tests of the model: words written out from the encodings of spec/30_encoding.md, the vectors of
spec/95_test_vectors.md, and for every statement with hypotheses a state and operands that meet them. -/

namespace Sys2Proof.Tests

open Sys2Proof Sys2Proof.Machine

/-! ### Helpers -/

/-- The reset state after start (95_test_vectors.md's start state). -/
def running : State := State.reset.setMode .run

/-- The state after one step on the word w placed at pc. -/
def after (w : Nat) (s : State) : State :=
  match step (s.withFetchWord 16 w) with
  | .next t => t
  | .fault _ => s
  | .refused _ => s

/-- The running state with V[x] = a and V[y] = b. -/
def two (x : RegIdx) (a : Byte) (y : RegIdx) (b : Byte) : State := (running.setReg x a).setReg y b

/-- s with this agenda. -/
def offering (es : List Event) (s : State) : State := s.setEnv { s.env with agenda := es }

/-- s with these bytes from address a on. -/
def holding (a : Nat) (bs : List Byte) (s : State) : State :=
  State.writeBytes (fun k => bs.getD k 0) a bs.length s

/-- s under the WRAP, MASK, lenient and advancing settings. -/
def loose (s : State) : State :=
  { s with params := { s.params with
      memOob := .wrap
      keyIndex := .mask
      decodeLenient := true
      unknownPcAdvance := true } }

/-! ### Well-formedness: an ill-formed term for the one check, and the field's ends -/

theorem test_wellFormed_refuses_height_16 : (Instr.drw 0 0 16).wellFormed = false := by decide

theorem test_wellFormed_takes_height_ends :
    (Instr.drw 0 0 0).wellFormed = true ∧ (Instr.drw 15 15 15).wellFormed = true := by decide

/-! ### Decoding, one word per constructor, bit by bit from 30_encoding.md R72 and R76 -/

theorem test_decode_control :
    decodeTableWord 16 0b0000_0000_1110_0000 = some .cls ∧
    decodeTableWord 16 0b0000_0000_1110_1110 = some .ret ∧
    decodeTableWord 16 0b0001_0010_0010_1000 = some (.jp 0x228) ∧
    decodeTableWord 16 0b0010_0011_0000_0001 = some (.call 0x301) ∧
    decodeTableWord 16 0b1011_1111_1110_0001 = some (.jpV0 0xFE1) := by decide

theorem test_decode_skips :
    decodeTableWord 16 0b0011_0011_0100_0010 = some (.seVxKk 3 0x42) ∧
    decodeTableWord 16 0b0100_1010_1000_0001 = some (.sneVxKk 10 0x81) ∧
    decodeTableWord 16 0b0101_0001_0010_0000 = some (.seVxVy 1 2) ∧
    decodeTableWord 16 0b1001_0001_1110_0000 = some (.sneVxVy 1 14) ∧
    decodeTableWord 16 0b1110_0101_1001_1110 = some (.skp 5) ∧
    decodeTableWord 16 0b1110_1101_1010_0001 = some (.sknp 13) := by decide

theorem test_decode_alu :
    decodeTableWord 16 0b0110_1010_1011_1011 = some (.ldVxKk 10 0xBB) ∧
    decodeTableWord 16 0b0111_0010_1111_1111 = some (.addVxKk 2 0xFF) ∧
    decodeTableWord 16 0b1000_0001_0010_0000 = some (.ldVxVy 1 2) ∧
    decodeTableWord 16 0b1000_0001_0010_0001 = some (.or 1 2) ∧
    decodeTableWord 16 0b1000_0001_0010_0010 = some (.and 1 2) ∧
    decodeTableWord 16 0b1000_0001_0010_0011 = some (.xor 1 2) ∧
    decodeTableWord 16 0b1000_0001_0010_0100 = some (.addVxVy 1 2) ∧
    decodeTableWord 16 0b1000_0001_0010_0101 = some (.sub 1 2) := by decide

theorem test_decode_shifts_and_rnd :
    decodeTableWord 16 0b1000_0100_0111_0110 = some (.shr 4 7) ∧
    decodeTableWord 16 0b1000_0001_0010_0111 = some (.subn 1 2) ∧
    decodeTableWord 16 0b1000_0100_0111_1110 = some (.shl 4 7) ∧
    decodeTableWord 16 0b1100_0011_0000_1111 = some (.rnd 3 0x0F) := by decide

theorem test_decode_display_and_timers :
    decodeTableWord 16 0b1101_0000_0001_0101 = some (.drw 0 1 5) ∧
    decodeTableWord 16 0b1111_0011_0000_0111 = some (.ldVxDt 3) ∧
    decodeTableWord 16 0b1111_0010_0000_1010 = some (.ldVxK 2) ∧
    decodeTableWord 16 0b1111_0000_0001_0101 = some (.ldDtVx 0) ∧
    decodeTableWord 16 0b1111_0001_0001_1000 = some (.ldStVx 1) := by decide

theorem test_decode_index_and_memory :
    decodeTableWord 16 0b1010_0010_1111_0000 = some (.ldI 0x2F0) ∧
    decodeTableWord 16 0b1111_0010_0001_1110 = some (.addIVx 2) ∧
    decodeTableWord 16 0b1111_0000_0010_1001 = some (.ldFVx 0) ∧
    decodeTableWord 16 0b1111_1100_0011_0011 = some (.ldBVx 12) ∧
    decodeTableWord 16 0b1111_0001_0101_0101 = some (.ldMemVx 1) ∧
    decodeTableWord 16 0b1111_1111_0110_0101 = some (.ldVxMem 15) := by decide

/-- V-F5 and V-F7: unknown opcodes of the strict decoder. -/
theorem test_decode_unknown :
    [0x0000, 0x5121, 0x9121, 0x800F, 0xE000, 0xF0FF, 0x01E0].map (decodeTableWord 16)
      = List.replicate 7 none := by decide

/-- V-F8 and V-F9: what the lenient decoder takes. -/
theorem test_decode_lenient :
    decode true 0x5121 = .ok (.seVxVy 1 2) ∧ decode true 0x01E0 = .ok .cls ∧
    decode true 0x9121 = .ok (.sneVxVy 1 2) ∧ decode true 0x0FEE = .ok .ret ∧
    decode true 0x800F = .error (.unknownOpcode 0x800F) := ⟨rfl, rfl, rfl, rfl, rfl⟩

/-- 20_memory.md R52: the byte at the lower address is the high one; a lone byte is no word. -/
theorem test_decode_bytes :
    decodeBytes false [0x12, 0x34, 0x56] = .ok (.jp 0x234, [0x56]) ∧
    decodeBytes false [0x12] = .error .truncated ∧
    encodeBytes (.jp 0x234) = [0x12, 0x34] := ⟨rfl, rfl, rfl⟩

/-! ### Reset (10_state.md R40) -/

theorem test_reset_memory_canonical : Memory.wf State.reset.params State.reset.mem = true := by decide

theorem test_reset_font_and_zeroes :
    State.reset.readByte 0x000 = 0xF0 ∧ State.reset.readByte 0x04F = 0x80 ∧
    State.reset.readByte 0x050 = 0 ∧ State.reset.readByte 0xFFF = 0 := by decide

theorem test_reset_params_wellFormed : State.reset.params.wf = true := by decide

/-! ### Vectors of 95_test_vectors.md, one step each -/

/-- W1 / V-A1. -/
theorem test_ldVxKk : (after 0x6ABB running).reg 0xA = 0xBB ∧ (after 0x6ABB running).pc = 0x202 := by
  decide

/-- V-A2. -/
theorem test_addVxKk : (after 0x7201 (two 2 0xFF 15 5)).reg 2 = 0 ∧
    (after 0x7201 (two 2 0xFF 15 5)).reg 15 = 5 := by decide

/-- V-A4. -/
theorem test_ldVxVy : (after 0x8010 (two 0 0 1 0x33)).reg 0 = 0x33 := by decide

/-- V-A5. -/
theorem test_or : (after 0x8011 ((two 0 0xF0 1 0x0F).setReg 15 7)).reg 0 = 0xFF ∧
    (after 0x8011 ((two 0 0xF0 1 0x0F).setReg 15 7)).reg 15 = 7 := by decide

/-- V-A6. -/
theorem test_and : (after 0x8012 (two 0 0xF0 1 0x3C)).reg 0 = 0x30 := by decide

/-- V-A7, V-A8. -/
theorem test_xor : (after 0x8013 (two 0 0xF0 1 0x3C)).reg 0 = 0xCC ∧
    (after 0x8003 (two 0 0x5A 1 0)).reg 0 = 0 := by decide

/-- W2. -/
theorem test_addVxVy : (after 0x8014 (two 0 0xFF 1 1)).reg 0 = 0 ∧
    (after 0x8014 (two 0 0xFF 1 1)).reg 15 = 1 := by decide

/-- V-A13, V-A14: VF as a destination and as a source. -/
theorem test_addVxVy_vf : (after 0x8F14 (two 15 0x10 1 0x20)).reg 15 = 0x30 ∧
    (after 0x80F4 (two 0 0x10 15 0xF5)).reg 0 = 5 ∧
    (after 0x80F4 (two 0 0x10 15 0xF5)).reg 15 = 1 := by decide

/-- W3, V-A17. -/
theorem test_sub : (after 0x8015 (two 0 1 1 2)).reg 0 = 0xFF ∧ (after 0x8015 (two 0 1 1 2)).reg 15 = 0 ∧
    (after 0x8015 (two 0 5 1 5)).reg 15 = 0 := by decide

/-- V-A19. -/
theorem test_sub_vf : (after 0x8F15 (two 15 9 1 3)).reg 15 = 6 := by decide

/-- V-A20, V-A21: the shift ignores V[y]. -/
theorem test_shr : (after 0x8406 (two 4 5 0 0)).reg 4 = 2 ∧ (after 0x8406 (two 4 5 0 0)).reg 15 = 1 ∧
    (after 0x8476 (two 4 0x80 7 0xFF)).reg 4 = 0x40 := by decide

/-- V-A24, V-A26. -/
theorem test_subn : (after 0x8017 (two 0 3 1 5)).reg 0 = 2 ∧ (after 0x8017 (two 0 3 1 5)).reg 15 = 1 ∧
    (after 0x8017 (two 0 5 1 3)).reg 0 = 0xFE ∧ (after 0x8017 (two 0 5 1 3)).reg 15 = 0 := by decide

/-- V-A28, V-A30. -/
theorem test_shl : (after 0x840E (two 4 0x81 0 0)).reg 4 = 2 ∧ (after 0x840E (two 4 0x81 0 0)).reg 15 = 1 ∧
    (after 0x8F0E (two 15 0x81 0 0)).reg 15 = 2 := by decide

/-- V-A31. -/
theorem test_rnd_feed :
    (after 0xC30F (running.setEnv { running.env with rndFeed := [0xAB] })).reg 3 = 0x0B := by decide

/-- V-A32: the free value, masked with 0. -/
theorem test_rnd_free : (after 0xC300 (two 3 0x55 0 0)).reg 3 = 0 := by
  show Config.freeByte 0 &&& 0 = 0
  exact BitVec.and_zero

/-- V-S1, V-S2. -/
theorem test_seVxKk : (after 0x3342 (two 3 0x42 0 0)).pc = 0x204 ∧
    (after 0x3343 (two 3 0x42 0 0)).pc = 0x202 := by decide

/-- V-S3, V-S4. -/
theorem test_sneVxKk : (after 0x4342 (two 3 0x42 0 0)).pc = 0x202 ∧
    (after 0x4300 (two 3 0x42 0 0)).pc = 0x204 := by decide

/-- V-S5, V-S6. -/
theorem test_seVxVy : (after 0x5120 (two 1 7 2 7)).pc = 0x204 ∧
    (after 0x5120 (two 1 7 2 8)).pc = 0x202 := by decide

/-- V-S8, V-S9. -/
theorem test_sneVxVy : (after 0x9120 (two 1 7 2 8)).pc = 0x204 ∧
    (after 0x9110 (two 1 7 2 8)).pc = 0x202 := by decide

/-- The key A pressed and V5 = 0x0A. -/
def keyA : State := (running.setReg 5 0x0A).setEnv { running.env with key := 0x0400 }

/-- V-S10, V-S11. -/
theorem test_skp : (after 0xE59E keyA).pc = 0x204 ∧ (after 0xE59E (two 5 0x0A 0 0)).pc = 0x202 := by
  decide

/-- V-S12, V-S13. -/
theorem test_sknp : (after 0xE5A1 (two 5 0x0A 0 0)).pc = 0x204 ∧ (after 0xE5A1 keyA).pc = 0x202 := by
  decide

/-- V-S14. -/
theorem test_skp_key_range :
    (after 0xE59E (keyA.setReg 5 0x1A)).fault = .keyRange ∧
    (after 0xE59E (keyA.setReg 5 0x1A)).faultInfo = 0x1A ∧
    (after 0xE59E (keyA.setReg 5 0x1A)).pc = 0x200 ∧
    (after 0xE59E (loose (keyA.setReg 5 0x1A))).pc = 0x204 := by decide

/-- V-C1, V-C2. -/
theorem test_jp : (after 0x1228 running).pc = 0x228 ∧ (after 0x1200 running).pc = 0x200 := by decide

/-- V-C3, V-C4. -/
theorem test_call : (after 0x2300 running).stackAt 1 = 0x200 ∧ (after 0x2300 running).sp = 1 ∧
    (after 0x2300 running).pc = 0x300 ∧ (after 0x2300 (running.setSp 15)).fault = .stackOverflow ∧
    (after 0x2300 (running.setSp 15)).faultInfo = 15 := by decide

/-- V-C5, V-C6. -/
theorem test_ret : (after 0x00EE running).fault = .stackUnderflow ∧ (after 0x00EE running).pc = 0x200 ∧
    (after 0x00EE ((running.setSp 2).setStackAt 2 0x340)).pc = 0x342 ∧
    (after 0x00EE ((running.setSp 2).setStackAt 2 0x340)).sp = 1 := by decide

/-- V-C8, V-C9. -/
theorem test_jpV0 : (after 0xB300 (two 0 0x10 1 0)).pc = 0x310 ∧
    (after 0xBFFF (two 0 0xFF 1 0)).pc = 0x10FE := by decide

/-- V-M1. -/
theorem test_ldI : (after 0xA2F0 running).i = 0x2F0 := by decide

/-- V-M3, V-M4. -/
theorem test_addIVx : (after 0xF21E ((two 2 1 0 0).setI 0xFFF)).i = 0x1000 ∧
    (after 0xF21E ((two 2 1 0 0).setI 0xFFFF)).i = 0 := by decide

/-- V-M5, V-M7. -/
theorem test_ldFVx : (after 0xF029 (two 0 0x0A 1 0)).i = 0x32 ∧
    (after 0xF029 (two 0 0xFF 1 0)).i = 0x4FB := by decide

/-- W7. -/
theorem test_ldBVx : (after 0xF033 ((two 0 156 1 0).setI 0x300)).readByte 0x300 = 1 ∧
    (after 0xF033 ((two 0 156 1 0).setI 0x300)).readByte 0x301 = 5 ∧
    (after 0xF033 ((two 0 156 1 0).setI 0x300)).readByte 0x302 = 6 := by decide

/-- V-M11: the fault writes nothing, and WRAP goes on at 0x000. -/
theorem test_ldBVx_edge : (after 0xF033 ((two 0 156 1 0).setI 0xFFE)).faultInfo = 0x1000 ∧
    (after 0xF033 ((two 0 156 1 0).setI 0xFFE)).readByte 0xFFE = 0 ∧
    (after 0xF033 (loose ((two 0 156 1 0).setI 0xFFE))).readByte 0xFFF = 5 ∧
    (after 0xF033 (loose ((two 0 156 1 0).setI 0xFFE))).readByte 0x000 = 6 := by decide

/-- V-M12, V-M13. -/
theorem test_ldMemVx : (after 0xF155 ((two 0 0x12 1 0x34).setI 0x300)).readByte 0x300 = 0x12 ∧
    (after 0xF155 ((two 0 0x12 1 0x34).setI 0x300)).readByte 0x301 = 0x34 ∧
    (after 0xF155 ((two 0 0x12 1 0x34).setI 0x300)).i = 0x300 ∧
    (after 0xF055 ((two 0 0x12 1 0x34).setI 0x300)).readByte 0x301 = 0 := by decide

/-- V-M17. -/
theorem test_ldMemVx_edge : (after 0xFF55 ((two 0 1 1 2).setI 0xFF8)).fault = .memBounds ∧
    (after 0xFF55 ((two 0 1 1 2).setI 0xFF8)).readByte 0xFF8 = 0 := by decide

/-- V-M15, V-M16. -/
theorem test_ldVxMem : (after 0xF165 ((holding 0x300 [0x12, 0x34] running).setI 0x300)).reg 0 = 0x12 ∧
    (after 0xF165 ((holding 0x300 [0x12, 0x34] running).setI 0x300)).reg 1 = 0x34 ∧
    (after 0xFF65 ((holding 0x30F [0xAA] running).setI 0x300)).reg 15 = 0xAA := by decide

/-- V-M18. -/
theorem test_ldVxMem_edge : (after 0xF065 (running.setI 0x1000)).fault = .memBounds ∧
    (after 0xF065 (running.setI 0x1000)).faultInfo = 0x1000 := by decide

/-- W5: the corner pixels of the wrapped glyph 0. -/
theorem test_drw_wraps :
    (after 0xD015 (two 0 63 1 31)).pixel 63 31 = true ∧ (after 0xD015 (two 0 63 1 31)).pixel 2 31 = true ∧
    (after 0xD015 (two 0 63 1 31)).pixel 0 0 = false ∧ (after 0xD015 (two 0 63 1 31)).pixel 2 0 = true ∧
    (after 0xD015 (two 0 63 1 31)).pixel 1 3 = true ∧ (after 0xD015 (two 0 63 1 31)).pixel 3 3 = false ∧
    (after 0xD015 (two 0 63 1 31)).reg 15 = 0 := by decide

/-- V-D7, V-D4: VF as a coordinate, and no rows. -/
theorem test_drw_vf :
    (after 0xDF11 (holding 0x300 [0x80] ((two 15 3 1 0).setI 0x300))).pixel 3 0 = true ∧
    (after 0xDF11 (holding 0x300 [0x80] ((two 15 3 1 0).setI 0x300))).reg 15 = 0 ∧
    (after 0xD010 (two 15 1 0 0)).reg 15 = 0 := by decide

/-- W4: the second draw collides and empties the framebuffer. -/
theorem test_drw_twice : (after 0xD015 (after 0xD015 running)).reg 15 = 1 ∧
    (after 0xD015 (after 0xD015 running)).fb = State.reset.fb := by decide

/-- V-D1. -/
theorem test_cls : (after 0x00E0 (after 0xD015 running)).fb = State.reset.fb ∧
    (after 0x00E0 running).out.dispClear = true := by decide

/-- V-T1, V-T2. -/
theorem test_delay_timer : (after 0xF307 (running.setDt 5)).reg 3 = 5 ∧
    (after 0xF015 (two 0 5 1 0)).dt = 5 := by decide

/-- V-T3. -/
theorem test_ldStVx : (after 0xF118 (two 1 2 0 0)).st = 2 ∧ (after 0xF118 (two 1 2 0 0)).tone = true ∧
    (after 0xF118 (two 1 2 0 0)).tickStep.tone = true ∧
    (after 0xF118 (two 1 2 0 0)).tickStep.tickStep.tone = false := by decide

/-- V-T5, V-T7. -/
theorem test_ldVxK : (after 0xF20A (running.setPc 0x210)).waitingPort = true ∧
    (after 0xF20A (running.setPc 0x210)).pc = 0x210 ∧
    ((after 0xF20A (running.setPc 0x210)).keyEdgeStep 7).reg 2 = 7 ∧
    ((after 0xF20A (running.setPc 0x210)).keyEdgeStep 7).pc = 0x212 := by decide

/-- V-F3, V-F4. -/
theorem test_fetch_edge :
    step (running.setPc 0xFFF) = .next (((running.setPc 0xFFF).setIpfCnt 1).raiseFault .fetchBounds 0xFFF) ∧
    (loose (holding 0xFFF [0x60] (running.setPc 0xFFF))).fetchWord = 0x60F0 := ⟨rfl, by decide⟩

/-- V-F5, V-F6: the report. -/
theorem test_unknown_opcode : (after 0x0000 running).out.unk = some (0x0000, 0x200) ∧
    (after 0x0000 running).pc = 0x200 ∧ (after 0x0000 running).mode = .run ∧
    (after 0x0000 (loose running)).pc = 0x202 := by decide

/-- V-F10: with IPF = 2 used up the next step is no instruction step. -/
theorem test_budget :
    ((running.setIpfCnt 10).canRun = false) ∧ ((running.setIpfCnt 9).canRun = true) := by decide

/-- W8, V-T4. -/
theorem test_tick : (running.setDt 5).tickStep.dt = 4 ∧ running.tickStep.dt = 0 := by decide

/-- 60_exceptions.md R215. -/
theorem test_divider : (((running.setDt 5).setDivCnt 2).clockStep 3).divCnt = 0 ∧
    (((running.setDt 5).setDivCnt 2).clockStep 3).dt = 4 ∧
    (((running.setDt 5).setDivCnt 1).clockStep 3).dt = 5 := by decide

/-! ### Witnesses: for each statement with hypotheses, states and operands that meet them, at the ends of their
ranges; the number of the clause where a statement has several -/

theorem witness_DecodeEncodeRoundTrip : (Instr.drw 15 15 15).wellFormed = true := by decide

theorem witness_StrictDecodeIsInjective : decode false 0xDFFF = .ok (.drw 15 15 15) := rfl

theorem witness_DecoderFollowsOpcodeTable : (Instr.ldVxMem 0).row ∈ opcodeTable := by decide

theorem witness_OpcodeRowsExclusive :
    Instr.cls.row ∈ opcodeTable ∧ Instr.cls.row.covers true 0x01E0 := ⟨by decide, rfl⟩

theorem witness_RegisterLoadsAndAddImmediate :
    (0x6ABB#16 &&& 0xF000 = 0x6000) ∧ (0x72FF#16 &&& 0xF000 = 0x7000) ∧
    (0x8FE0#16 &&& 0xF00F = 0x8000) := by decide

theorem witness_LogicOperations :
    (0x8FE1#16 &&& 0xF00F = 0x8001) ∧ (0x8FE2#16 &&& 0xF00F = 0x8002) ∧
    (0x8FE3#16 &&& 0xF00F = 0x8003) := by decide

theorem witness_AluFlagValues : (14 : RegIdx) ≠ regF := by decide

/-- Both clauses: a fixed byte, and none. -/
theorem witness_RandomByteIsMasked :
    (running.setEnv { running.env with rndFeed := [0xAB] }).env.rndFeed = 0xAB :: [] ∧
    running.env.rndFeed = [] := ⟨rfl, rfl⟩

theorem witness_CompareSkips :
    (0x3342#16 &&& 0xF000 = 0x3000) ∧ (0x4342#16 &&& 0xF000 = 0x4000) ∧
    (0x5120#16 &&& 0xF00F = 0x5000) ∧ (0x9121#16 &&& 0xF000 = 0x9000) ∧
    (fieldOp 0x5121 = 0x5 ∧ fieldN 0x5121 ≠ 0) ∧ (fieldOp 0x912F = 0x9 ∧ fieldN 0x912F ≠ 0) := by decide

/-- The last clause of SkipResult, at both ends of its range. -/
theorem witness_CompareSkips_edge :
    (running.setPc 0xFFC).reg 0 = 0 ∧ 0xFFC ≤ (running.setPc 0xFFC).pc.toNat ∧
    (running.setPc 0xFFC).pc.toNat < 0xFFFC ∧ 0xFFC ≤ (running.setPc 0xFFFB).pc.toNat ∧
    (running.setPc 0xFFFB).pc.toNat < 0xFFFC := by decide

/-- Both ways in: an index of 0xF, and one above it under MASK. -/
theorem witness_KeySkips :
    ((two 5 0x0F 0 0).reg 5).toNat ≤ 0xF ∧ (loose (two 5 0xFF 0 0)).params.keyIndex = .mask := by decide

theorem witness_KeyIndexFault :
    ((two 5 0x10 0 0).reg 5).toNat > 0xF ∧ (two 5 0x10 0 0).params.keyIndex = .fault := by decide

theorem witness_Jumps : (0x1FFF#16 &&& 0xF000 = 0x1000) ∧ (0xBFFF#16 &&& 0xF000 = 0xB000) := by decide

theorem witness_CallAndReturn :
    (running.setSp 14).sp.toNat < 15 ∧ 0 < (running.setSp 1).sp.toNat := by decide

theorem witness_StackFaults : (running.setSp 15).sp.toNat = 15 ∧ running.sp.toNat = 0 := by decide

theorem witness_ReturnUndoesCall : (running.setSp 14).sp.toNat < 15 := by decide

theorem witness_IndexLoads :
    (0xAFFF#16 &&& 0xF000 = 0xA000) ∧ (0xFF1E#16 &&& 0xF0FF = 0xF01E) ∧
    (0xFF29#16 &&& 0xF0FF = 0xF029) := by decide

/-- In bounds at the last place, under WRAP anywhere, and out of bounds at the first place. -/
theorem witness_DecimalStore :
    (0xF033#16 &&& 0xF0FF = 0xF033) ∧ (running.setI 0xFFD).BlockFits 3 ∧
    (loose (running.setI 0xFFFF)).BlockFits 3 ∧
    (running.setI 0xFFE).params.memOob = .fault ∧ (running.setI 0xFFE).i.toNat + 2 > 0xFFF :=
  ⟨by decide, .inr (.inr (by decide)), .inl rfl, rfl, by decide⟩

theorem witness_BlockStore : (running.setI 0xFF0).BlockFits ((15 : RegIdx).val + 1) :=
  .inr (.inr (by decide))

theorem witness_BlockLoad :
    (running.setI 0xFFF).BlockFits ((0 : RegIdx).val + 1) ∧
    (loose (running.setI 0xFFF)).BlockFits ((15 : RegIdx).val + 1) :=
  ⟨.inr (.inr (by decide)), .inl rfl⟩

theorem witness_BlockLoadUndoesStore :
    ∃ s t u : State, s.BlockFits ((1 : RegIdx).val + 1) ∧ exec (.ldMemVx 1) s = .next t ∧
      u.i = t.i ∧ u.mem = t.mem ∧ u.params = t.params ∧ u.reg 0 ≠ s.reg 0 :=
  let s := (two 0 0x12 1 0x34).setI 0x300
  let t := (State.writeBytes (fun k => s.reg (regIdx k)) 0x300 2 s).advance
  ⟨s, t, t.setReg 0 0, .inr (.inr (by decide)), rfl, rfl, rfl, rfl, by decide⟩

/-- Both clauses, each at its first failing address. -/
theorem witness_MemoryBoundsFault :
    (running.setI 0xFF1).params.memOob = .fault ∧ (running.setI 0xFF1).i.toNat + (15 : RegIdx).val > 0xFFF ∧
    (running.setI 0x1000).i.toNat + 1 - 1 > 0xFFF ∧ (running.setI 0xFF2).i.toNat + 15 - 1 > 0xFFF := by
  decide

theorem witness_DrawIsXorOfWrappedSprite :
    (running.setI 0xFF1).BlockFits 15 ∧ (running.setI 0xFFFF).BlockFits 0 ∧
    (loose (running.setI 0xFFFF)).BlockFits 15 :=
  ⟨.inr (.inr (by decide)), .inr (.inl rfl), .inl rfl⟩

/-- A draw that collides and one that does not, both in bounds. -/
theorem witness_CollisionIsOnToOff :
    running.BlockFits 5 ∧ (after 0xD015 running).BlockFits 5 ∧
    running.spriteAt 0 1 5 1 1 = false ∧ running.spriteAt 0 1 5 0 0 = true :=
  ⟨.inr (.inr (by decide)), .inr (.inr (by decide)), by decide, by decide⟩

theorem witness_DrawTwiceRestores :
    ∃ s t : State, s.BlockFits 5 ∧ (0 : RegIdx) ≠ regF ∧ (1 : RegIdx) ≠ regF ∧
      exec (.drw 0 1 5) s = .next t ∧ (∀ c r, s.pixel c r = false) :=
  ⟨running, _, .inr (.inr (by decide)), by decide, by decide, rfl, fun c r => by
    simp [running, State.reset, State.afterReset, State.setMode, State.pixel]⟩

theorem witness_TimerInstructions :
    (0xFF07#16 &&& 0xF0FF = 0xF007) ∧ (0xFF15#16 &&& 0xF0FF = 0xF015) ∧
    (0xFF18#16 &&& 0xF0FF = 0xF018) ∧ (∀ z, Instr.ldVxDt 0 ≠ .ldStVx z) := by decide

/-- A key edge offered to a waiting core and to a running one. -/
theorem witness_KeyEdgeResumesOnlyTheWait :
    (offering [.keyEdge 7] (running.suspend 2)).env.agenda = .keyEdge 7 :: [] ∧
    (offering [.keyEdge 7] (running.suspend 2)).mode = .waitKey ∧
    (offering [.keyEdge 7] running).mode ≠ .waitKey := ⟨rfl, rfl, by decide⟩

/-- A running state with the word at its pc. -/
def at200 (w : List Byte) : State := holding 0x200 w running

theorem enabled_at200 (w : List Byte) (es : List Event) : (offering es (at200 w)).Enabled := by
  have h : ∀ n : Nat, (State.writeBytes (fun k => w.getD k 0) 0x200 n running).mode = .run ∧
      (State.writeBytes (fun k => w.getD k 0) 0x200 n running).ipfCnt = 0 ∧
      (State.writeBytes (fun k => w.getD k 0) 0x200 n running).params = running.params := by
    intro n
    induction n with
    | zero => exact ⟨rfl, rfl, rfl⟩
    | succ n ih => exact ih
  obtain ⟨h₁, h₂, h₃⟩ := h w.length
  refine ⟨h₁, ?_⟩
  show (State.writeBytes _ _ _ _).ipfCnt < (State.writeBytes _ _ _ _).params.ipf
  rw [h₂, h₃]
  decide

theorem witness_KeyWaitRunsToItsEdge :
    ∃ s : State, s.Enabled ∧ s.FetchFits ∧ s.params.divider = none ∧
      s.env.agenda = .instr :: (List.replicate 2 .tick ++ .keyEdge 7 :: []) ∧
      decode s.params.decodeLenient s.fetchWord = .ok (.ldVxK 2) :=
  ⟨offering [.instr, .tick, .tick, .keyEdge 7] (at200 [0xF2, 0x0A]), enabled_at200 _ _,
    .inr (by decide), rfl, rfl, rfl⟩

/-- Both ways in: an empty agenda, and an instruction step as its next entry. -/
theorem witness_StepRunsDecodedInstruction :
    ∃ s u : State, (s.Enabled ∧ s.InstrNext ∧ s.FetchFits ∧
      decode s.params.decodeLenient s.fetchWord = .ok (.ldVxKk 0xA 0xBB)) ∧
      (u.Enabled ∧ u.InstrNext ∧ u.FetchFits ∧ u.env.agenda ≠ [] ∧
      decode u.params.decodeLenient u.fetchWord = .ok (.ldVxKk 0xA 0xBB)) :=
  ⟨offering [] (at200 [0x6A, 0xBB]), offering [.instr, .tick] (at200 [0x6A, 0xBB]),
    ⟨enabled_at200 _ _, .inl rfl, .inr (by decide), rfl⟩,
    ⟨enabled_at200 _ _, .inr ⟨_, rfl⟩, .inr (by decide), by decide, rfl⟩⟩

theorem witness_FetchIsBigEndianAndSeesStores :
    ∃ s t : State, s.BlockFits ((1 : RegIdx).val + 1) ∧ (0 : RegIdx) < 1 ∧
      exec (.ldMemVx 1) s = .next t ∧ t.pc.toNat = s.dataAddr (0 : RegIdx).val :=
  ⟨(two 0 0x12 1 0x08).setI 0x202, _, .inr (.inr (by decide)), by decide, rfl, by decide⟩

/-- Under both settings of UNKNOWN_PC_ADVANCE. -/
theorem witness_UnknownOpcodeIsReported :
    ∃ s u : State, (s.Enabled ∧ s.InstrNext ∧ s.FetchFits ∧ s.params.unknownPcAdvance = false ∧
      decode s.params.decodeLenient s.fetchWord = .error (.unknownOpcode s.fetchWord)) ∧
      (u.Enabled ∧ u.InstrNext ∧ u.FetchFits ∧ u.params.unknownPcAdvance = true ∧
      decode u.params.decodeLenient u.fetchWord = .error (.unknownOpcode u.fetchWord)) :=
  ⟨running, loose running, ⟨⟨rfl, by decide⟩, .inl rfl, .inr (by decide), rfl, rfl⟩,
    ⟨⟨rfl, by decide⟩, .inl rfl, .inl rfl, rfl, rfl⟩⟩

theorem witness_FetchBoundsFault :
    (running.setPc 0xFFF).Enabled ∧ (running.setPc 0xFFF).InstrNext ∧
    (running.setPc 0xFFF).params.memOob = .fault ∧ (running.setPc 0xFFF).pc.toNat > 0xFFE :=
  ⟨⟨rfl, by decide⟩, .inl rfl, rfl, by decide⟩

/-- Both clauses: a core not yet started, and one whose budget is used up. -/
theorem witness_NoInstructionUnlessEnabled :
    ¬ State.reset.Enabled ∧ State.reset.env.agenda = [] ∧
    ¬ (offering [.instr] (running.setIpfCnt 10)).Enabled ∧
    (offering [.instr] (running.setIpfCnt 10)).env.agenda = .instr :: [] :=
  ⟨fun h => absurd h.1 (by decide), rfl, fun h => absurd h.2 (by decide), rfl⟩

theorem witness_PlacedWordRunsNext :
    1 ≤ State.reset.params.ipf ∧
    decode State.reset.params.decodeLenient (BitVec.ofNat 16 0x6ABB) = .ok (.ldVxKk 0xA 0xBB) :=
  ⟨by decide, rfl⟩

theorem witness_SelfJumpIsFixedPoint : running.pc = zextAddr 0x200 := rfl

theorem witness_TickStep :
    (offering [.tick, .instr] running).env.agenda = .tick :: [.instr] ∧
    (offering [.tick, .instr] running).params.divider = none := ⟨rfl, rfl⟩

theorem witness_TicksCountTimersDown :
    running.params.divider = none ∧
    (offering [.tick, .tick, .instr] running).env.agenda = List.replicate 2 .tick ++ [.instr] :=
  ⟨rfl, rfl⟩

/-- The running state with the divider inside, of ratio 3, one cycle before its tick. -/
def divided : State := { running with params := { running.params with divider := some 3 }, divCnt := 2 }

theorem witness_DividerTicksOncePerDiv :
    (offering [.clock, .clock, .clock, .instr] divided).params.divider = some 3 ∧
    (offering [.clock, .clock, .clock, .instr] divided).divCnt < 3 ∧
    (offering [.clock, .clock, .clock, .instr] divided).env.agenda = List.replicate 3 .clock ++ [.instr] :=
  ⟨rfl, by decide, rfl⟩

theorem running_inv : running.Inv where
  memCanonical := by decide
  budgetPositive := by decide
  budgetKept := by decide
  dividerAbsent := fun _ => rfl
  dividerBelow := fun d h => by cases h
  haltedIffFault := by decide
  infoClear := fun _ => rfl
  faultKind := by decide
  stackBase := by decide

/-- The divider is inside and two cycles before its tick; a cycle, then an instruction step. -/
def spanning : State := offering [.clock, .instr] (divided.setDivCnt 1)

theorem spanning_inv : spanning.Inv where
  memCanonical := by decide
  budgetPositive := by decide
  budgetKept := by decide
  dividerAbsent := fun h => by cases h
  dividerBelow := fun d h => by
    cases h
    decide
  haltedIffFault := by decide
  infoClear := fun _ => rfl
  faultKind := by decide
  stackBase := by decide

/-- An instruction step, an unknown opcode; and one after a clock cycle that makes no tick. -/
theorem witness_BudgetCapsInstructionSteps :
    (running.Inv ∧ noTickWithin 1 running = true ∧ instructionSteps 1 running = 1) ∧
    (spanning.Inv ∧ noTickWithin 2 spanning = true ∧ instructionSteps 2 spanning = 1) :=
  ⟨⟨running_inv, by decide, by decide⟩, ⟨spanning_inv, by decide, by decide⟩⟩

/-- The clock cycle at DIV - 1 ends such a span. -/
theorem test_tick_ends_span : noTickWithin 1 (offering [.clock] divided) = false := by decide

/-- 60_exceptions.md R216, all four events in one cycle, with the divider outside and inside. -/
theorem test_sameCycle_order :
    sameCycle none true true (some 7) 1 = [.reset, .tick, .keyEdge 7, .instr] ∧
    sameCycle (some 3) true false (some 7) 1 = [.reset, .clock, .keyEdge 7, .instr] := by decide

/-- Both instructions, the one with a strobe and the other with the divider's tick. -/
theorem witness_SameCycleTickComesFirst :
    (∃ s : State, s.mode = .run ∧ 1 ≤ s.params.ipf ∧ s.FetchFits ∧ s.tickDue = true ∧
      s.env.agenda = sameCycle s.params.divider false true none 1 ++ [] ∧
      decode s.params.decodeLenient s.fetchWord = .ok (.ldDtVx 0)) ∧
    (∃ s : State, s.mode = .run ∧ 1 ≤ s.params.ipf ∧ s.FetchFits ∧ s.tickDue = true ∧
      s.params.divider ≠ none ∧ s.env.agenda = sameCycle s.params.divider false true none 1 ++ [] ∧
      decode s.params.decodeLenient s.fetchWord = .ok (.ldStVx 0)) :=
  ⟨⟨offering [.tick, .instr] (at200 [0xF0, 0x15]), rfl, by decide, .inr (by decide), rfl, rfl, rfl⟩,
    ⟨offering [.clock, .instr] (holding 0x200 [0xF0, 0x18] divided), rfl, by decide, .inr (by decide), rfl,
      by decide, rfl, rfl⟩⟩

/-- Both clauses: a full cycle with a reset, and a key wait that ends beside a tick of the divider. -/
theorem witness_SameCycleResetFirstInstructionLast :
    (∃ s : State, s.env.agenda = sameCycle s.params.divider true true (some 7) 2 ++ [.start]) ∧
    (∃ s : State, s.mode = .waitKey ∧ 1 ≤ s.params.ipf ∧ (s.setPc (s.pc + 2)).FetchFits ∧
      s.tickDue = true ∧ s.env.agenda = sameCycle s.params.divider false true (some 7) 1 ++ [] ∧
      decode s.params.decodeLenient (s.setPc (s.pc + 2)).fetchWord = .ok (.ldDtVx 2)) :=
  ⟨⟨offering [.reset, .tick, .keyEdge 7, .instr, .instr, .start] running, rfl⟩,
    ⟨offering [.clock, .keyEdge 7, .instr] ((holding 0x202 [0xF2, 0x15] divided).suspend 2), rfl,
      by decide, .inr (by decide), rfl, rfl, rfl⟩⟩

theorem witness_ResetStep :
    (offering [.reset] (after 0x00EE running)).env.agenda = .reset :: [] ∧
    (offering [.reset] (after 0x00EE running)).mode = .halted := ⟨rfl, by decide⟩

theorem witness_BootRunsTheRom :
    [0x12, 0x00].length ≤ maxRom ∧
    (offering [.reset, .load [0x12, 0x00], .start] running).env.agenda =
      .reset :: .load [0x12, 0x00] :: .start :: [] := ⟨by decide, rfl⟩

/-- Both clauses: the longest ROM that fits, and the shortest that does not. -/
theorem witness_HostLoad :
    State.reset.mode = .idle ∧ (List.replicate 3584 (0 : Byte)).length ≤ maxRom ∧
    maxRom < (List.replicate 3585 (0 : Byte)).length ∧
    (offering [.load [0x12]] State.reset).env.agenda = .load [0x12] :: [] :=
  ⟨rfl, Nat.le_of_eq List.length_replicate,
    Nat.lt_of_lt_of_eq (Nat.lt_succ_self 3584) List.length_replicate.symm, rfl⟩

/-- Each of the four refusals occurs. -/
theorem witness_OnlyHostMisuseIsRefused :
    step (offering [.load []] running) = .refused .loadOutsideIdle ∧
    step (offering [.start] running) = .refused .startOutsideIdle ∧
    step (offering [.tick] divided) = .refused .tickStrobeWithDivider ∧
    step (offering [.clock] running) = .refused .clockWithoutDivider := ⟨rfl, rfl, rfl, rfl⟩

theorem witness_StepKeepsInvariant : ∃ t, running.Inv ∧ step running = .next t := ⟨_, running_inv, rfl⟩

theorem reset_idleIsReset : State.reset.IdleIsReset := fun _ =>
  ⟨by decide, rfl, rfl, by decide, rfl, rfl, rfl, fun c r => by
    simp [State.reset, State.afterReset, State.pixel], rfl, rfl⟩

/-- A key edge reaches a core that is still idle. -/
theorem witness_StepKeepsIdleAsReset :
    ∃ s t : State, s.IdleIsReset ∧ s.mode = .idle ∧ step s = .next t :=
  ⟨offering [.keyEdge 7] State.reset, _, reset_idleIsReset, rfl, rfl⟩

theorem witness_StepKeepsParameters : ∃ t, step running = .next t := ⟨_, rfl⟩

/-- The clauses: the wait is entered, left by an edge, kept by a tick; HALTED is left by reset, IDLE by start, RUN by
a fault. -/
theorem witness_ModesAreLeftOnlyAsStated :
    (∃ t, step (offering [.instr] (at200 [0xF2, 0x0A])) = .next t ∧ t.mode = .waitKey) ∧
    (∃ t, step (offering [.keyEdge 7] (running.suspend 2)) = .next t ∧ t.mode = .run) ∧
    (∃ t, step (offering [.tick] (running.suspend 2)) = .next t ∧ t.mode = .waitKey) ∧
    (∃ t, step (offering [.reset] (running.raiseFault .keyRange 0x10)) = .next t ∧ t.mode = .idle) ∧
    (∃ t, step (offering [.start] State.reset) = .next t ∧ t.mode = .run) ∧
    (∃ t, step (running.setPc 0xFFF) = .next t ∧ t.mode = .halted) :=
  ⟨⟨_, rfl, rfl⟩, ⟨_, rfl, rfl⟩, ⟨_, rfl, rfl⟩, ⟨_, rfl, rfl⟩, ⟨_, rfl, rfl⟩, ⟨_, rfl, rfl⟩⟩

theorem witness_InstructionsWriteOnlyTheirState :
    ∃ t, exec (.call 0x300) running = .next t ∧ t.sp ≠ running.sp ∧ ¬ Part.stack.same running t :=
  ⟨_, rfl, by decide, fun h => absurd (h 1) (by decide)⟩

/-- Each of the four faults an instruction raises. -/
theorem witness_FaultsArePrecise :
    running.mode ≠ .halted ∧
    (∃ t, exec (.call 0) (running.setSp 15) = .next t ∧ t.mode = .halted) ∧
    (∃ t, exec .ret running = .next t ∧ t.mode = .halted) ∧
    (∃ t, exec (.ldVxMem 0) (running.setI 0x1000) = .next t ∧ t.mode = .halted) ∧
    (∃ t, exec (.skp 0) (two 0 0x10 1 0) = .next t ∧ t.mode = .halted) :=
  ⟨by decide, ⟨_, rfl, rfl⟩, ⟨_, rfl, rfl⟩, ⟨_, rfl, rfl⟩, ⟨_, rfl, rfl⟩⟩

theorem witness_HiddenStateDoesNotInfluence :
    (∀ x, Instr.ldVxDt 0 ≠ .ldStVx x) ∧ Instr.ldVxDt 0 ≠ .cls ∧
    (∀ x y n, Instr.ldVxDt 0 ≠ .drw x y n) := by
  refine ⟨?_, ?_, ?_⟩ <;> intros <;> simp

end Sys2Proof.Tests
end

section
/-! PROOF. The fetch and the block store (spec/20_memory.md R52; spec/44_index_memory.md R164): what the fetched
word is as a number, and what an address inside the block reads as once LD [I], Vx has run. -/

namespace Sys2Proof.Machine

theorem regIdx_val (k : RegIdx) : regIdx k.val = k := Fin.ext (Nat.mod_eq_of_lt k.isLt)

/-- The fetch is big-endian (R52). -/
theorem fetchWord_toNat (s : State) :
    s.fetchWord.toNat = (s.readByte s.pc.toNat).toNat * 256 + (s.readByte (s.pc.toNat + 1)).toNat :=
  wordOfBytes_toNat _ _

/-- LD [I], Vx within bounds (R164). -/
theorem exec_ldMemVx_of_blockFits {s : State} {x : RegIdx} (h : s.BlockFits (x.val + 1)) :
    exec (.ldMemVx x) s =
      .next (State.writeBytes (fun k => s.reg (regIdx k)) (s.dataAddr 0) (x.val + 1) s).advance := by
  show execLdMemVx x s = _
  rw [execLdMemVx, if_pos ((blockInBounds_iff s _).2 h)]

/-- A block store wraps onto none of its own bytes, so each offset up to x reads back its register. -/
theorem readByte_dataAddr_after_ldMemVx {s t : State} {x k : RegIdx} (hfit : s.BlockFits (x.val + 1))
    (hexec : exec (.ldMemVx x) s = .next t) (hk : k ≤ x) : t.readByte (s.dataAddr k.val) = s.reg k := by
  rw [exec_ldMemVx_of_blockFits hfit] at hexec
  obtain rfl := Host.Outcome.next.inj hexec
  have hsize : x.val + 1 ≤ memSize := Nat.le_trans x.isLt (by decide)
  have hread := readByte_writeBytes_same (fun j => s.reg (regIdx j)) (s.dataAddr 0) (x.val + 1) s hsize
    k.val (Nat.lt_succ_of_le hk)
  rwa [regIdx_val] at hread

/-- Below another register number, k + 1 does not wrap to V[0]. -/
theorem regIdx_succ_val {k x : RegIdx} (h : k < x) : (k + 1).val = k.val + 1 := by
  have hkx : k.val < x.val := h
  have hx : x.val < 16 := x.isLt
  rw [Fin.val_add]
  exact Nat.mod_eq_of_lt (show k.val + 1 < 16 by omega)

/-- Settles O36: the fetch after the store reads the data addresses of offsets k and k + 1, both within the
block because k < x. -/
theorem fetchIsBigEndianAndSeesStores : Obligations.FetchIsBigEndianAndSeesStores := by
  refine ⟨fetchWord_toNat, fun s t x k hfit hkx hexec hpc => ?_⟩
  have hsucc : (k + 1).val = k.val + 1 := regIdx_succ_val hkx
  have hk : k ≤ x := Nat.le_of_lt hkx
  have hk1 : k + 1 ≤ x := Fin.le_def.2 (hsucc ▸ Nat.succ_le_of_lt hkx)
  have hnext : s.dataAddr k.val + 1 = s.dataAddr (k + 1).val := by
    rw [hsucc]
    rfl
  rw [fetchWord_toNat, hpc, hnext, readByte_dataAddr_after_ldMemVx hfit hexec hk,
    readByte_dataAddr_after_ldMemVx hfit hexec hk1]

end Sys2Proof.Machine
end

section
/-! PROOF. The operand fields as numbers (spec/30_encoding.md R71, R73): each field is the quotient of the word by the
weight of its lowest bit, reduced to its width. One lemma per field, for whatever speaks of a word's operands. -/

namespace Sys2Proof.Machine

/-- A bit field as a number: shifting right by `start` divides by `2 ^ start`. -/
theorem extractLsb'_toNat_eq_div_mod (w : Word) (start len : Nat) :
    (w.extractLsb' start len).toNat = w.toNat / 2 ^ start % 2 ^ len := by
  rw [BitVec.extractLsb'_toNat, Nat.shiftRight_eq_div_pow]

/-- A field at the word's low end is a remainder alone. -/
theorem extractLsb'_zero_toNat (w : Word) (len : Nat) : (w.extractLsb' 0 len).toNat = w.toNat % 2 ^ len := by
  rw [extractLsb'_toNat_eq_div_mod, Nat.pow_zero, Nat.div_one]

/-- The top nibble needs no reduction: a word is below 16 · 4096. -/
theorem fieldOp_eq_div (w : Word) : fieldOp w = w.toNat / 4096 := by
  have hq : w.toNat / 4096 < 16 := Nat.div_lt_of_lt_mul w.isLt
  exact (extractLsb'_toNat_eq_div_mod w 12 4).trans (Nat.mod_eq_of_lt hq)

theorem fieldX_val (w : Word) : (fieldX w).val = w.toNat / 256 % 16 :=
  extractLsb'_toNat_eq_div_mod w 8 4

theorem fieldY_val (w : Word) : (fieldY w).val = w.toNat / 16 % 16 :=
  extractLsb'_toNat_eq_div_mod w 4 4

theorem fieldN_eq_mod (w : Word) : fieldN w = w.toNat % 16 :=
  extractLsb'_zero_toNat w 4

theorem fieldKk_toNat (w : Word) : (fieldKk w).toNat = w.toNat % 256 :=
  extractLsb'_zero_toNat w 8

theorem fieldNnn_toNat (w : Word) : (fieldNnn w).toNat = w.toNat % 4096 :=
  extractLsb'_zero_toNat w 12

/-- Zero-extension keeps the number (R73): 12 bits fit in 16. -/
theorem zextAddr_toNat (a : Addr) : (zextAddr a).toNat = a.toNat :=
  BitVec.toNat_setWidth_of_le (by decide)

/-- Settles O7: each field is the quotient and remainder of its lemma, and nnn keeps its number in 16 bits. -/
theorem fieldsAreTheNamedBits : Obligations.FieldsAreTheNamedBits := fun w =>
  ⟨fieldOp_eq_div w, fieldX_val w, fieldY_val w, fieldN_eq_mod w, fieldKk_toNat w, fieldNnn_toNat w,
    (zextAddr_toNat (fieldNnn w)).trans (fieldNnn_toNat w)⟩

end Sys2Proof.Machine
end

section
/-! PROOF. Jumps (spec/41_control_flow.md R121, R123): the rows whose word the family nibble alone decides
(spec/30_encoding.md R76), the frame of an update of pc, and which new pc the next fetch accepts (R102). -/

namespace Sys2Proof.Machine

/-- The mask of a row that the family nibble alone decides leaves the nibble at its weight. -/
theorem fieldOp_of_and_F000 {w m : Word} (h : w &&& 0xF000#16 = m) : fieldOp w = m.toNat / 0x1000 := by
  rw [← h, and_F000, fieldOp_eq_div, Nat.mul_div_cancel _ (by decide)]

/-- A row that the family nibble alone decides: its word decodes as its family does. -/
theorem rowDecodes_of_fieldOp {m : Word} {i : Word → Instr}
    (h : ∀ lenient w, fieldOp w = m.toNat / 0x1000 → decode lenient w = .ok (i w)) :
    RowDecodes 0xF000 0xF000 m i := fun w =>
  ⟨fun hw => h false w (fieldOp_of_and_F000 hw), fun hw => h true w (fieldOp_of_and_F000 hw)⟩

theorem decode_of_fieldOp_1 (lenient : Bool) (w : Word) (h : fieldOp w = 0x1) :
    decode lenient w = .ok (.jp (fieldNnn w)) := by
  simp only [decode, h]

theorem decode_of_fieldOp_B (lenient : Bool) (w : Word) (h : fieldOp w = 0xB) :
    decode lenient w = .ok (.jpV0 (fieldNnn w)) := by
  simp only [decode, h]

theorem exec_jp (nnn : Addr) (s : State) : exec (.jp nnn) s = .next (s.setPc (zextAddr nnn)) := rfl

theorem exec_jpV0 (nnn : Addr) (s : State) :
    exec (.jpV0 nnn) s = .next (s.setPc (zextAddr nnn + zextByte (s.reg 0))) := rfl

theorem changesOnly_setPc (s : State) (w : Word) : ChangesOnly [.pc] s (s.setPc w) := by
  intro p hp
  cases p with
  | pc => exact absurd (List.mem_singleton_self _) hp
  | _ => simp [Part.same]

/-- R102 for a new pc. -/
theorem fetchInBounds_setPc_iff (s : State) (w : Word) :
    (s.setPc w).fetchInBounds = true ↔ s.params.memOob = .wrap ∨ w.toNat ≤ 0xFFE :=
  fetchInBounds_iff (s.setPc w)

/-- The target of JP V0 is the exact sum (R123): 12 and 8 bits do not carry out of 16. -/
theorem zextAddr_add_zextByte_toNat (a : Addr) (b : Byte) :
    (zextAddr a + zextByte b).toNat = a.toNat + b.toNat := by
  have ha := a.isLt
  have hb := b.isLt
  have hext : (zextByte b).toNat = b.toNat := BitVec.toNat_setWidth_of_le (by decide)
  rw [BitVec.toNat_add, zextAddr_toNat, hext]
  omega

/-- Of the 12-bit addresses only the last is above 0xFFE. -/
theorem addr_le_FFE_iff (a : Addr) : a.toNat ≤ 0xFFE ↔ a.toNat ≠ 0xFFF := by
  have ha := a.isLt
  omega

/-- Settles O16: both forms answer an update of pc, so target, frame and the next fetch are the laws of that
update. -/
theorem jumps : Obligations.Jumps := by
  refine ⟨rowDecodes_of_fieldOp decode_of_fieldOp_1, rowDecodes_of_fieldOp decode_of_fieldOp_B,
    fun s nnn => ⟨⟨_, exec_jp nnn s, ?target, changesOnly_setPc s _, ?fetch⟩,
      ⟨_, exec_jpV0 nnn s, ?targetV0, changesOnly_setPc s _, ?fetchV0⟩⟩⟩
  case target => exact zextAddr_toNat nnn
  case fetch => rw [fetchInBounds_setPc_iff, zextAddr_toNat, addr_le_FFE_iff]
  case targetV0 => exact zextAddr_add_zextByte_toNat nnn (s.reg 0)
  case fetchV0 => rw [fetchInBounds_setPc_iff, zextAddr_add_zextByte_toNat]

end Sys2Proof.Machine
end

section
/-! PROOF. The comparing skips (spec/42_skip.md R130 to R133): the rows of families 5 and 9, whose low nibble only the
strict decoder asks about (spec/30_encoding.md R75), and what a conditional skip does whatever its condition is. -/

namespace Sys2Proof.Machine

/-! ### Encoding -/

/-- The mask of a row that the family and the low nibble decide leaves both at their weights. -/
theorem fieldOp_fieldN_of_and_F00F {w m : Word} (h : w &&& 0xF00F#16 = m) :
    fieldOp w = m.toNat / 0x1000 ∧ fieldN w = m.toNat % 0x10 := by
  rw [← h, and_F00F, fieldOp_eq_div, fieldN_eq_mod]
  omega

theorem decodePair_of_fieldN_zero (lenient : Bool) {w : Word} (i : Instr) (h : fieldN w = 0) :
    decodePair lenient w i = .ok i := by
  simp [decodePair, h]

theorem decodePair_lenient (w : Word) (i : Instr) : decodePair true w i = .ok i := rfl

theorem decodePair_strict_of_fieldN_ne_zero {w : Word} (i : Instr) (h : fieldN w ≠ 0) :
    decodePair false w i = .error (.unknownOpcode w) := by
  simp [decodePair, h]

/-- A row of families 5 and 9: its strict mask makes the low nibble 0, and the lenient decoder does not ask. -/
theorem rowDecodes_of_decodePair {m : Word} {i : Word → Instr} (hm : m.toNat % 0x10 = 0)
    (h : ∀ lenient w, fieldOp w = m.toNat / 0x1000 → decode lenient w = decodePair lenient w (i w)) :
    RowDecodes 0xF00F 0xF000 m i := by
  refine fun w => ⟨fun hw => ?strict, fun hw => ?lenient⟩
  case strict =>
    obtain ⟨hop, hn⟩ := fieldOp_fieldN_of_and_F00F hw
    rw [h false w hop, decodePair_of_fieldN_zero false (i w) (hn.trans hm)]
  case lenient => rw [h true w (fieldOp_of_and_F000 hw), decodePair_lenient]

theorem decode_of_fieldOp_3 (lenient : Bool) (w : Word) (h : fieldOp w = 0x3) :
    decode lenient w = .ok (.seVxKk (fieldX w) (fieldKk w)) := by
  simp only [decode, h]

theorem decode_of_fieldOp_4 (lenient : Bool) (w : Word) (h : fieldOp w = 0x4) :
    decode lenient w = .ok (.sneVxKk (fieldX w) (fieldKk w)) := by
  simp only [decode, h]

theorem decode_of_fieldOp_5 (lenient : Bool) (w : Word) (h : fieldOp w = 0x5) :
    decode lenient w = decodePair lenient w (.seVxVy (fieldX w) (fieldY w)) := by
  simp only [decode, h]

theorem decode_of_fieldOp_9 (lenient : Bool) (w : Word) (h : fieldOp w = 0x9) :
    decode lenient w = decodePair lenient w (.sneVxVy (fieldX w) (fieldY w)) := by
  simp only [decode, h]

/-- R75's strict refusal in families 5 and 9. -/
theorem decode_strict_of_fieldN_ne_zero (w : Word) (hop : fieldOp w = 0x5 ∨ fieldOp w = 0x9)
    (hn : fieldN w ≠ 0) : decode false w = .error (.unknownOpcode w) := by
  rcases hop with h5 | h9
  · rw [decode_of_fieldOp_5 false w h5, decodePair_strict_of_fieldN_ne_zero _ hn]
  · rw [decode_of_fieldOp_9 false w h9, decodePair_strict_of_fieldN_ne_zero _ hn]

/-! ### Completion -/

/-- Below 0xFFFC the skip does not wrap at 16 bits. -/
theorem pc_add_four_toNat {pc : Word} (h : pc.toNat < 0xFFFC) : (pc + 4).toNat = pc.toNat + 4 :=
  BitVec.toNat_add_of_lt (Nat.add_lt_of_lt_sub h)

/-- A skip from 0xFFC or above leaves memory, where the fetch check accepts nothing under FAULT (R102, R130). -/
theorem skip_past_memory (s : State) (hlow : 0xFFC ≤ s.pc.toNat) (hwrap : s.pc.toNat < 0xFFFC) :
    0x1000 ≤ (s.pc + 4).toNat ∧
      ((s.setPc (s.pc + 4)).fetchInBounds = true ↔ s.params.memOob = .wrap) := by
  have hpc : 0x1000 ≤ (s.pc + 4).toNat := by
    rw [pc_add_four_toNat hwrap]
    omega
  have hout : ¬ (s.pc + 4).toNat ≤ 0xFFE := by omega
  exact ⟨hpc, by rw [fetchInBounds_setPc_iff, or_iff_left hout]⟩

/-- What a conditional skip does, for a condition that the model computes as a Boolean. -/
theorem skipResult_skipIf {c : Prop} {b : Bool} (s : State) (hb : b = true ↔ c) :
    SkipResult c s (s.skipIf b) := by
  have htaken (hc : c) : s.skipIf b = s.setPc (s.pc + 4) := by
    rw [State.skipIf_eq, if_pos (hb.2 hc)]
  have hnot (hc : ¬ c) : s.skipIf b = s.setPc (s.pc + 2) := by
    rw [State.skipIf_eq, if_neg (mt hb.1 hc)]
  refine ⟨fun hc => ?skipped, fun hc => ?next, changesOnly_setPc s _, fun hc hlow hwrap => ?edge⟩
  case skipped => rw [htaken hc, State.setPc_pc]
  case next => rw [hnot hc, State.setPc_pc]
  case edge =>
    rw [htaken hc, State.setPc_pc]
    exact skip_past_memory s hlow hwrap

theorem exec_seVxKk (x : RegIdx) (kk : Byte) (s : State) :
    exec (.seVxKk x kk) s = .next (s.skipIf (s.reg x == kk)) := rfl

theorem exec_sneVxKk (x : RegIdx) (kk : Byte) (s : State) :
    exec (.sneVxKk x kk) s = .next (s.skipIf (s.reg x != kk)) := rfl

theorem exec_seVxVy (x y : RegIdx) (s : State) :
    exec (.seVxVy x y) s = .next (s.skipIf (s.reg x == s.reg y)) := rfl

theorem exec_sneVxVy (x y : RegIdx) (s : State) :
    exec (.sneVxVy x y) s = .next (s.skipIf (s.reg x != s.reg y)) := rfl

/-- Settles O13: each of the four answers a conditional skip, and its Boolean comparison decides the stated
condition. -/
theorem compareSkips : Obligations.CompareSkips :=
  ⟨rowDecodes_of_fieldOp decode_of_fieldOp_3, rowDecodes_of_fieldOp decode_of_fieldOp_4,
    rowDecodes_of_decodePair rfl decode_of_fieldOp_5, rowDecodes_of_decodePair rfl decode_of_fieldOp_9,
    decode_strict_of_fieldN_ne_zero, fun s x y kk =>
      ⟨⟨_, exec_seVxKk x kk s, skipResult_skipIf s beq_iff_eq⟩,
        ⟨_, exec_sneVxKk x kk s, skipResult_skipIf s bne_iff_ne⟩,
        ⟨_, exec_seVxVy x y s, skipResult_skipIf s beq_iff_eq⟩,
        ⟨_, exec_sneVxVy x y s, skipResult_skipIf s bne_iff_ne⟩⟩⟩

end Sys2Proof.Machine
end

section
/-! PROOF. Register loads and the 8-bit ALU (spec/43_alu.md R140 to R145, R153): the rows of families 6, 7 and 8, what a
register write followed by the advance of pc changes, and which value the flag write leaves in VF. -/

namespace Sys2Proof.Machine

/-! ### Encoding -/

theorem decode_of_fieldOp_6 (lenient : Bool) (w : Word) (h : fieldOp w = 0x6) :
    decode lenient w = .ok (.ldVxKk (fieldX w) (fieldKk w)) := by
  simp only [decode, h]

theorem decode_of_fieldOp_7 (lenient : Bool) (w : Word) (h : fieldOp w = 0x7) :
    decode lenient w = .ok (.addVxKk (fieldX w) (fieldKk w)) := by
  simp only [decode, h]

theorem decode_of_fieldOp_8 (lenient : Bool) (w : Word) (h : fieldOp w = 0x8) :
    decode lenient w = decodeFamily8 w := by
  simp only [decode, h]

/-- A row of family 8: the low nibble selects, and DECODE_LENIENT does not matter. -/
theorem rowDecodes_of_decodeFamily8 {m : Word} {i : Word → Instr} (hm : m.toNat / 0x1000 = 0x8)
    (h : ∀ w, fieldN w = m.toNat % 0x10 → decodeFamily8 w = .ok (i w)) :
    RowDecodes 0xF00F 0xF00F m i := by
  have hdecode (lenient : Bool) (w : Word) (hw : w &&& 0xF00F#16 = m) : decode lenient w = .ok (i w) := by
    obtain ⟨hop, hn⟩ := fieldOp_fieldN_of_and_F00F hw
    rw [decode_of_fieldOp_8 lenient w (hop.trans hm), h w hn]
  exact fun w => ⟨hdecode false w, hdecode true w⟩

theorem decodeFamily8_of_fieldN_0 (w : Word) (h : fieldN w = 0x0) :
    decodeFamily8 w = .ok (.ldVxVy (fieldX w) (fieldY w)) := by
  simp only [decodeFamily8, h]

theorem decodeFamily8_of_fieldN_1 (w : Word) (h : fieldN w = 0x1) :
    decodeFamily8 w = .ok (.or (fieldX w) (fieldY w)) := by
  simp only [decodeFamily8, h]

theorem decodeFamily8_of_fieldN_2 (w : Word) (h : fieldN w = 0x2) :
    decodeFamily8 w = .ok (.and (fieldX w) (fieldY w)) := by
  simp only [decodeFamily8, h]

theorem decodeFamily8_of_fieldN_3 (w : Word) (h : fieldN w = 0x3) :
    decodeFamily8 w = .ok (.xor (fieldX w) (fieldY w)) := by
  simp only [decodeFamily8, h]

/-! ### Frames of updates in a row -/

theorem Part.same_trans {p : Part} {s t u : State} (hst : p.same s t) (htu : p.same t u) : p.same s u := by
  cases p with
  | regs | stack | mem => exact fun k => (htu k).trans (hst k)
  | fb => exact fun c r => (htu c r).trans (hst c r)
  | fault | rnd => exact ⟨htu.1.trans hst.1, htu.2.trans hst.2⟩
  | _ => exact Eq.trans htu hst

/-- Two updates in a row change what either of them may change. -/
theorem ChangesOnly.trans {ps qs : List Part} {s t u : State} (hst : ChangesOnly ps s t)
    (htu : ChangesOnly qs t u) : ChangesOnly (ps ++ qs) s u := fun p hp =>
  Part.same_trans (hst p (mt (List.mem_append_left qs) hp)) (htu p (mt (List.mem_append_right ps) hp))

theorem changesOnly_setReg (s : State) (x : RegIdx) (b : Byte) : ChangesOnly [.regs] s (s.setReg x b) := by
  intro p hp
  cases p with
  | regs => exact absurd (List.mem_singleton_self _) hp
  | _ => simp [Part.same]

/-! ### Completion -/

theorem exec_ldVxKk (x : RegIdx) (kk : Byte) (s : State) :
    exec (.ldVxKk x kk) s = .next (s.setReg x kk).advance := rfl

theorem exec_addVxKk (x : RegIdx) (kk : Byte) (s : State) :
    exec (.addVxKk x kk) s = .next (s.setReg x (s.reg x + kk)).advance := rfl

theorem exec_ldVxVy (x y : RegIdx) (s : State) :
    exec (.ldVxVy x y) s = .next (s.setReg x (s.reg y)).advance := rfl

theorem exec_or (x y : RegIdx) (s : State) :
    exec (.or x y) s = .next (s.setReg x (s.reg x ||| s.reg y)).advance := rfl

theorem exec_and (x y : RegIdx) (s : State) :
    exec (.and x y) s = .next (s.setReg x (s.reg x &&& s.reg y)).advance := rfl

theorem exec_xor (x y : RegIdx) (s : State) :
    exec (.xor x y) s = .next (s.setReg x (s.reg x ^^^ s.reg y)).advance := rfl

theorem exec_addVxVy (x y : RegIdx) (s : State) :
    exec (.addVxVy x y) s =
      .next (s.setFlagged (carryOut (s.reg x) (s.reg y)) x (s.reg x + s.reg y)).advance := rfl

theorem exec_sub (x y : RegIdx) (s : State) :
    exec (.sub x y) s =
      .next (s.setFlagged (noBorrow (s.reg x) (s.reg y)) x (s.reg x - s.reg y)).advance := rfl

theorem exec_subn (x y : RegIdx) (s : State) :
    exec (.subn x y) s =
      .next (s.setFlagged (noBorrow (s.reg y) (s.reg x)) x (s.reg y - s.reg x)).advance := rfl

theorem exec_shr (x y : RegIdx) (s : State) :
    exec (.shr x y) s = .next (s.setFlagged (shiftedOutLow (s.reg x)) x (s.reg x >>> 1)).advance := rfl

theorem exec_shl (x y : RegIdx) (s : State) :
    exec (.shl x y) s = .next (s.setFlagged (shiftedOutHigh (s.reg x)) x (s.reg x <<< 1)).advance := rfl

/-- What every instruction does that writes one register and moves on to the next word. -/
theorem regResult_setReg_advance (s : State) (x : RegIdx) (b : Byte) :
    RegResult x b s (s.setReg x b).advance := by
  refine ⟨?result, fun z hz => ?others, rfl, (changesOnly_setReg s x b).trans (changesOnly_setPc _ _)⟩
  case result => rw [State.advance_eq, State.setPc_reg, State.setReg_reg_same]
  case others => rw [State.advance_eq, State.setPc_reg, State.setReg_reg_other s b hz]

/-- The sum of two bytes, as the spec writes it (R141, R152). -/
theorem add_eq_ofNat_mod (a b : Byte) : a + b = BitVec.ofNat 8 ((a.toNat + b.toNat) % 256) :=
  BitVec.eq_of_toNat_eq (by simp)

/-- Settles O8: each of the three writes V[x] and advances pc; only the sum has another form in the statement. -/
theorem registerLoadsAndAddImmediate : Obligations.RegisterLoadsAndAddImmediate := by
  refine ⟨rowDecodes_of_fieldOp decode_of_fieldOp_6, rowDecodes_of_fieldOp decode_of_fieldOp_7,
    rowDecodes_of_decodeFamily8 rfl decodeFamily8_of_fieldN_0, fun s x y kk =>
      ⟨⟨_, exec_ldVxKk x kk s, regResult_setReg_advance s x kk⟩, ⟨_, exec_addVxKk x kk s, ?sum⟩,
        ⟨_, exec_ldVxVy x y s, regResult_setReg_advance s x (s.reg y)⟩⟩⟩
  case sum =>
    rw [← add_eq_ofNat_mod]
    exact regResult_setReg_advance s x (s.reg x + kk)

/-- An instruction that only writes V[x] and advances pc, when the bits of the value are known. -/
theorem completes_bitwise {i : Instr} {s : State} {x : RegIdx} {v : Byte} {bit : Nat → Bool}
    (hexec : exec i s = .next (s.setReg x v).advance) (hbit : ∀ b, v.getLsbD b = bit b) :
    Completes i s (fun t => RegResult x (t.reg x) s t ∧ ∀ b, (t.reg x).getLsbD b = bit b) := by
  have hresult := regResult_setReg_advance s x v
  have hreg : ((s.setReg x v).advance).reg x = v := hresult.1
  exact ⟨_, hexec, by rwa [hreg], by rwa [hreg]⟩

/-- Settles O9: the three write a bitwise operation of the registers, whose bits the library gives. -/
theorem logicOperations : Obligations.LogicOperations :=
  ⟨rowDecodes_of_decodeFamily8 rfl decodeFamily8_of_fieldN_1,
    rowDecodes_of_decodeFamily8 rfl decodeFamily8_of_fieldN_2,
    rowDecodes_of_decodeFamily8 rfl decodeFamily8_of_fieldN_3, fun s x y =>
      ⟨completes_bitwise (exec_or x y s) fun _ => BitVec.getLsbD_or,
        completes_bitwise (exec_and x y s) fun _ => BitVec.getLsbD_and,
        completes_bitwise (exec_xor x y s) fun _ => BitVec.getLsbD_xor⟩⟩

/-! ### The flag -/

/-- The flag write stands when the destination is another register: only the result overwrites it (R11). -/
theorem setFlagged_reg_regF (s : State) (flag : Bool) {x : RegIdx} (result : Byte) (hx : x ≠ regF) :
    (s.setFlagged flag x result).reg regF = flagByte flag := by
  rw [State.setFlagged_eq, State.setReg_reg_other _ result hx.symm, State.setReg_reg_same]

theorem flagByte_eq_ite {b : Bool} {c : Prop} [Decidable c] (hb : b = true ↔ c) :
    flagByte b = if c then 0x01 else 0x00 := by
  simp only [flagByte, hb]

theorem carryOut_iff (a b : Byte) : carryOut a b = true ↔ a.toNat + b.toNat > 255 := decide_eq_true_iff

theorem noBorrow_iff (a b : Byte) : noBorrow a b = true ↔ a.toNat > b.toNat := decide_eq_true_iff

/-- Masking with bit k alone leaves 0 exactly when that bit is clear. -/
theorem and_twoPow_bne_zero_iff (b : Byte) (k : Nat) (hk : k < 8) :
    (b &&& BitVec.twoPow 8 k != 0#8) = true ↔ b.getLsbD k = true := by
  have hone : BitVec.twoPow 8 k ≠ 0#8 := by
    intro h
    have hbit := congrArg (BitVec.getLsbD · k) h
    simp [hk] at hbit
  rw [bne_iff_ne, BitVec.and_twoPow]
  split
  case isTrue h => exact iff_of_true hone h
  case isFalse h => exact iff_of_false (not_not_intro rfl) h

theorem shiftedOutLow_iff (b : Byte) : shiftedOutLow b = true ↔ b.getLsbD 0 = true :=
  and_twoPow_bne_zero_iff b 0 (by decide)

theorem shiftedOutHigh_iff (b : Byte) : shiftedOutHigh b = true ↔ b.getLsbD 7 = true :=
  and_twoPow_bne_zero_iff b 7 (by decide)

/-- What a flag-writing instruction leaves in VF, for a flag that the model computes as a Boolean. -/
theorem completes_flag {i : Instr} {s : State} {x : RegIdx} {flag : Bool} {result : Byte} {c : Prop}
    [Decidable c] (hx : x ≠ regF) (hexec : exec i s = .next (s.setFlagged flag x result).advance)
    (hflag : flag = true ↔ c) :
    Completes i s (fun t => t.reg regF = if c then 0x01 else 0x00) := by
  have hvf : ((s.setFlagged flag x result).advance).reg regF = flagByte flag := by
    rw [State.advance_eq, State.setPc_reg, setFlagged_reg_regF s flag result hx]
  exact ⟨_, hexec, hvf.trans (flagByte_eq_ite hflag)⟩

/-- Settles O10: the result goes to another register than VF, and each Boolean flag decides the stated condition. -/
theorem aluFlagValues : Obligations.AluFlagValues := fun s x y hx =>
  ⟨completes_flag hx (exec_addVxVy x y s) (carryOut_iff _ _),
    completes_flag hx (exec_sub x y s) (noBorrow_iff _ _),
    completes_flag hx (exec_subn x y s) (noBorrow_iff _ _),
    completes_flag hx (exec_shr x y s) (shiftedOutLow_iff _),
    completes_flag hx (exec_shl x y s) (shiftedOutHigh_iff _)⟩

end Sys2Proof.Machine
end

section
/-! PROOF. The index register (spec/44_index_memory.md R160 to R162): the rows of family F, whose low byte selects the
instruction (spec/30_encoding.md R74), and what a write of I followed by the advance of pc changes. -/

namespace Sys2Proof.Machine

/-! ### Encoding -/

/-- The mask of a row that the family and the low byte decide leaves both at their weights. -/
theorem fieldOp_fieldKk_of_and_F0FF {w m : Word} (h : w &&& 0xF0FF#16 = m) :
    fieldOp w = m.toNat / 0x1000 ∧ (fieldKk w).toNat = m.toNat % 0x100 := by
  rw [← h, and_F0FF, fieldOp_eq_div, fieldKk_toNat]
  omega

theorem decode_of_fieldOp_A (lenient : Bool) (w : Word) (h : fieldOp w = 0xA) :
    decode lenient w = .ok (.ldI (fieldNnn w)) := by
  simp only [decode, h]

theorem decode_of_fieldOp_F (lenient : Bool) (w : Word) (h : fieldOp w = 0xF) :
    decode lenient w = decodeFamilyF w := by
  simp only [decode, h]

/-- A row of family F: the low byte selects, and DECODE_LENIENT does not matter. -/
theorem rowDecodes_of_decodeFamilyF {m : Word} {i : Word → Instr} (hm : m.toNat / 0x1000 = 0xF)
    (h : ∀ w, (fieldKk w).toNat = m.toNat % 0x100 → decodeFamilyF w = .ok (i w)) :
    RowDecodes 0xF0FF 0xF0FF m i := by
  have hdecode (lenient : Bool) (w : Word) (hw : w &&& 0xF0FF#16 = m) : decode lenient w = .ok (i w) := by
    obtain ⟨hop, hkk⟩ := fieldOp_fieldKk_of_and_F0FF hw
    rw [decode_of_fieldOp_F lenient w (hop.trans hm), h w hkk]
  exact fun w => ⟨hdecode false w, hdecode true w⟩

theorem decodeFamilyF_of_fieldKk_1E (w : Word) (h : (fieldKk w).toNat = 0x1E) :
    decodeFamilyF w = .ok (.addIVx (fieldX w)) := by
  simp only [decodeFamilyF, h]

theorem decodeFamilyF_of_fieldKk_29 (w : Word) (h : (fieldKk w).toNat = 0x29) :
    decodeFamilyF w = .ok (.ldFVx (fieldX w)) := by
  simp only [decodeFamilyF, h]

/-! ### Completion -/

theorem changesOnly_setI (s : State) (w : Word) : ChangesOnly [.index] s (s.setI w) := by
  intro p hp
  cases p with
  | index => exact absurd (List.mem_singleton_self _) hp
  | _ => simp [Part.same]

theorem exec_ldI (nnn : Addr) (s : State) : exec (.ldI nnn) s = .next (s.setI (zextAddr nnn)).advance := rfl

theorem exec_addIVx (x : RegIdx) (s : State) :
    exec (.addIVx x) s = .next (s.setI (s.i + zextByte (s.reg x))).advance := rfl

theorem exec_ldFVx (x : RegIdx) (s : State) :
    exec (.ldFVx x) s = .next (s.setI (zextByte (s.reg x) * 5)).advance := rfl

/-- An instruction that only writes I and advances pc, when the written word is known as a number. -/
theorem completes_setI_advance {i : Instr} {s : State} {w : Word} {n : Nat}
    (hexec : exec i s = .next (s.setI w).advance) (hw : w.toNat = n) :
    Completes i s (fun t => t.i.toNat = n ∧ t.pc = s.pc + 2 ∧ ChangesOnly [.index, .pc] s t) :=
  ⟨_, hexec, hw, rfl, (changesOnly_setI s w).trans (changesOnly_setPc _ _)⟩

/-- Zero-extension keeps the number (R73): 8 bits fit in 16. -/
theorem zextByte_toNat (b : Byte) : (zextByte b).toNat = b.toNat :=
  BitVec.toNat_setWidth_of_le (by decide)

/-- ADD I, Vx wraps at 16 bits, not at 12 (R161). -/
theorem add_zextByte_toNat (w : Word) (b : Byte) :
    (w + zextByte b).toNat = (w.toNat + b.toNat) % 65536 := by
  rw [BitVec.toNat_add, zextByte_toNat]

/-- The glyph address of a full byte is exact (R162): 255 · 5 is below 65536. -/
theorem zextByte_mul_five_toNat (b : Byte) : (zextByte b * 5).toNat = b.toNat * 5 := by
  have hb : b.toNat < 256 := b.isLt
  have hfit : b.toNat * 5 < 2 ^ 16 := by omega
  rw [BitVec.toNat_mul, zextByte_toNat]
  exact Nat.mod_eq_of_lt hfit

/-- Settles O20: each of the three writes I and advances pc, so only the number of the written word is its own. -/
theorem indexLoads : Obligations.IndexLoads :=
  ⟨rowDecodes_of_fieldOp decode_of_fieldOp_A, rowDecodes_of_decodeFamilyF rfl decodeFamilyF_of_fieldKk_1E,
    rowDecodes_of_decodeFamilyF rfl decodeFamilyF_of_fieldKk_29, fun s x nnn =>
      ⟨completes_setI_advance (exec_ldI nnn s) (zextAddr_toNat nnn),
        completes_setI_advance (exec_addIVx x s) (add_zextByte_toNat s.i (s.reg x)),
        completes_setI_advance (exec_ldFVx x s) (zextByte_mul_five_toNat (s.reg x))⟩⟩

end Sys2Proof.Machine
end

section
/-! PROOF. The timer instructions (spec/46_timer_input.md R180, R182, R183): their rows of family F, what a write of a
timer followed by the advance of pc changes, and that no instruction reads ST: each one's condition and each value it
writes are the same whatever ST holds, so a write of ST commutes with it. -/

namespace Sys2Proof.Machine

/-! ### Encoding -/

theorem decodeFamilyF_of_fieldKk_07 (w : Word) (h : (fieldKk w).toNat = 0x07) :
    decodeFamilyF w = .ok (.ldVxDt (fieldX w)) := by
  simp only [decodeFamilyF, h]

theorem decodeFamilyF_of_fieldKk_15 (w : Word) (h : (fieldKk w).toNat = 0x15) :
    decodeFamilyF w = .ok (.ldDtVx (fieldX w)) := by
  simp only [decodeFamilyF, h]

theorem decodeFamilyF_of_fieldKk_18 (w : Word) (h : (fieldKk w).toNat = 0x18) :
    decodeFamilyF w = .ok (.ldStVx (fieldX w)) := by
  simp only [decodeFamilyF, h]

/-! ### Completion -/

theorem changesOnly_setDt (s : State) (b : Byte) : ChangesOnly [.dt] s (s.setDt b) := by
  intro p hp
  cases p with
  | dt => exact absurd (List.mem_singleton_self _) hp
  | _ => simp [Part.same]

theorem changesOnly_setSt (s : State) (b : Byte) : ChangesOnly [.st] s (s.setSt b) := by
  intro p hp
  cases p with
  | st => exact absurd (List.mem_singleton_self _) hp
  | _ => simp [Part.same]

theorem exec_ldVxDt (x : RegIdx) (s : State) : exec (.ldVxDt x) s = .next (s.setReg x s.dt).advance := rfl

theorem exec_ldDtVx (x : RegIdx) (s : State) : exec (.ldDtVx x) s = .next (s.setDt (s.reg x)).advance := rfl

theorem exec_ldStVx (x : RegIdx) (s : State) : exec (.ldStVx x) s = .next (s.setSt (s.reg x)).advance := rfl

theorem completes_ldDtVx (x : RegIdx) (s : State) : Completes (.ldDtVx x) s (fun t =>
    t.dt = s.reg x ∧ t.pc = s.pc + 2 ∧ ChangesOnly [.dt, .pc] s t) :=
  ⟨_, exec_ldDtVx x s, rfl, rfl, (changesOnly_setDt s _).trans (changesOnly_setPc _ _)⟩

theorem tone_iff (s : State) : s.tone = true ↔ 0 < s.st.toNat := decide_eq_true_iff

theorem completes_ldStVx (x : RegIdx) (s : State) : Completes (.ldStVx x) s (fun t =>
    t.st = s.reg x ∧ (t.tone = true ↔ 0 < (s.reg x).toNat) ∧ t.pc = s.pc + 2 ∧ ChangesOnly [.st, .pc] s t) :=
  ⟨_, exec_ldStVx x s, rfl, tone_iff _, rfl, (changesOnly_setSt s _).trans (changesOnly_setPc _ _)⟩

/-! ### ST is not read back -/

/-- LD ST overwrites whatever ST held. -/
theorem exec_ldStVx_setSt (x : RegIdx) (b : Byte) (s : State) :
    exec (.ldStVx x) (s.setSt b) = exec (.ldStVx x) s := rfl

/-- An update commutes with a guarded choice of two next states when it decides neither the guard nor what each
branch does. -/
theorem ite_next_eq_mapNext {c c' : Prop} [Decidable c] [Decidable c'] {f : State → State} {t t' u u' : State}
    (hc : c' ↔ c) (ht : t' = f t) (hu : u' = f u) :
    (if c' then .next t' else .next u') = mapNext f (if c then .next t else .next u) := by
  by_cases h : c
  · rw [if_pos h, if_pos (hc.mpr h), ht, mapNext]
  · rw [if_neg h, if_neg (mt hc.mp h), hu, mapNext]

theorem blockInBounds_setSt_iff (b : Byte) (n : Nat) (s : State) :
    (s.setSt b).blockInBounds n = true ↔ s.blockInBounds n = true :=
  (blockInBounds_iff (s.setSt b) n).trans (blockInBounds_iff s n).symm

theorem keyIndex_setSt (b vx : Byte) (s : State) : (s.setSt b).keyIndex vx = s.keyIndex vx := rfl

theorem writeBytes_setSt (f : Nat → Byte) (ea n : Nat) (b : Byte) (s : State) :
    State.writeBytes f ea n (s.setSt b) = (State.writeBytes f ea n s).setSt b := by
  induction n with
  | zero => rfl
  | succ n ih => rw [State.writeBytes, State.writeBytes, ih]; rfl

theorem setRegs_setSt (f : Nat → Byte) (n : Nat) (b : Byte) (s : State) :
    State.setRegs f n (s.setSt b) = (State.setRegs f n s).setSt b := by
  induction n with
  | zero => rfl
  | succ n ih => rw [State.setRegs, State.setRegs, ih]; rfl

/-- No instruction but LD ST depends on ST or writes it (R183).  The instructions without a guard write values that do
not mention ST; the guarded ones do so on both sides of a guard that does not mention it either; SKP and SKNP choose by
the key that V[x] names. -/
theorem exec_setSt (b : Byte) (i : Instr) (s : State) (hi : ∀ z, i ≠ .ldStVx z) :
    exec i (s.setSt b) = mapNext (fun t => t.setSt b) (exec i s) := by
  cases i with
  | ldStVx x => exact absurd rfl (hi x)
  | ret | call nnn => exact ite_next_eq_mapNext Iff.rfl rfl rfl
  | skp x | sknp x =>
    simp only [exec, execSkp, execSknp, keyIndex_setSt, State.setSt_reg]
    cases s.keyIndex (s.reg x) with
    | none => rfl
    | some k => rfl
  | drw x y n => exact ite_next_eq_mapNext (blockInBounds_setSt_iff b n s) rfl rfl
  | ldBVx x =>
    exact ite_next_eq_mapNext (blockInBounds_setSt_iff b 3 s)
      (congrArg State.advance (writeBytes_setSt _ _ 3 b s)) rfl
  | ldMemVx x =>
    exact ite_next_eq_mapNext (blockInBounds_setSt_iff b (x.val + 1) s)
      (congrArg State.advance (writeBytes_setSt _ _ (x.val + 1) b s)) rfl
  | ldVxMem x =>
    exact ite_next_eq_mapNext (blockInBounds_setSt_iff b (x.val + 1) s)
      (congrArg State.advance (setRegs_setSt _ (x.val + 1) b s)) rfl
  | _ => rfl

/-- Settles O31: the three rows of family F, the three writes with their frames, and that a write of ST commutes with
every instruction but LD ST. -/
theorem timerInstructions : Obligations.TimerInstructions :=
  ⟨rowDecodes_of_decodeFamilyF rfl decodeFamilyF_of_fieldKk_07,
    rowDecodes_of_decodeFamilyF rfl decodeFamilyF_of_fieldKk_15,
    rowDecodes_of_decodeFamilyF rfl decodeFamilyF_of_fieldKk_18, fun s x =>
      ⟨⟨_, exec_ldVxDt x s, regResult_setReg_advance s x s.dt⟩, completes_ldDtVx x s, completes_ldStVx x s,
        fun b => exec_ldStVx_setSt x b s, fun b i hi => exec_setSt b i s hi⟩⟩

end Sys2Proof.Machine
end

section
/-! PROOF. The decoder, the encoder and the opcode table as one (spec/30_encoding.md R71 to R78).  An instruction with
its operand fields read again from a word is what that word decodes to exactly when the word lies in the instruction's
row; the round trip, the injectivity of the strict decoder and the exclusiveness of the rows follow from this. -/

namespace Sys2Proof
open Machine

/-- The same instruction with every operand field read from the word (R71). -/
def Instr.withFieldsOf (w : Word) : Instr → Instr
  | .cls => .cls
  | .ret => .ret
  | .jp _ => .jp (fieldNnn w)
  | .call _ => .call (fieldNnn w)
  | .seVxKk _ _ => .seVxKk (fieldX w) (fieldKk w)
  | .sneVxKk _ _ => .sneVxKk (fieldX w) (fieldKk w)
  | .seVxVy _ _ => .seVxVy (fieldX w) (fieldY w)
  | .ldVxKk _ _ => .ldVxKk (fieldX w) (fieldKk w)
  | .addVxKk _ _ => .addVxKk (fieldX w) (fieldKk w)
  | .ldVxVy _ _ => .ldVxVy (fieldX w) (fieldY w)
  | .or _ _ => .or (fieldX w) (fieldY w)
  | .and _ _ => .and (fieldX w) (fieldY w)
  | .xor _ _ => .xor (fieldX w) (fieldY w)
  | .addVxVy _ _ => .addVxVy (fieldX w) (fieldY w)
  | .sub _ _ => .sub (fieldX w) (fieldY w)
  | .shr _ _ => .shr (fieldX w) (fieldY w)
  | .subn _ _ => .subn (fieldX w) (fieldY w)
  | .shl _ _ => .shl (fieldX w) (fieldY w)
  | .sneVxVy _ _ => .sneVxVy (fieldX w) (fieldY w)
  | .ldI _ => .ldI (fieldNnn w)
  | .jpV0 _ => .jpV0 (fieldNnn w)
  | .rnd _ _ => .rnd (fieldX w) (fieldKk w)
  | .drw _ _ _ => .drw (fieldX w) (fieldY w) (fieldN w)
  | .skp _ => .skp (fieldX w)
  | .sknp _ => .sknp (fieldX w)
  | .ldVxDt _ => .ldVxDt (fieldX w)
  | .ldVxK _ => .ldVxK (fieldX w)
  | .ldDtVx _ => .ldDtVx (fieldX w)
  | .ldStVx _ => .ldStVx (fieldX w)
  | .addIVx _ => .addIVx (fieldX w)
  | .ldFVx _ => .ldFVx (fieldX w)
  | .ldBVx _ => .ldBVx (fieldX w)
  | .ldMemVx _ => .ldMemVx (fieldX w)
  | .ldVxMem _ => .ldVxMem (fieldX w)

theorem row_withFieldsOf (w : Word) (i : Instr) : (i.withFieldsOf w).row = i.row := by
  cases i <;> rfl

/-! ### A word of a row decodes to the row's instruction -/

theorem decode_of_fieldOp_0 (lenient : Bool) (w : Word) (h : fieldOp w = 0x0) :
    decode lenient w = decodeFamily0 lenient w := by
  simp only [decode, h]

theorem decode_of_fieldOp_E (lenient : Bool) (w : Word) (h : fieldOp w = 0xE) :
    decode lenient w = decodeFamilyE w := by
  simp only [decode, h]

/-- A row of family 0: the low byte selects, and the strict mask makes x = 0. -/
theorem rowDecodes_of_decodeFamily0 {m : Word} {i : Word → Instr} (hm : m.toNat < 0x100)
    (h : ∀ lenient w, (lenient = true ∨ (fieldX w).val = 0) → (fieldKk w).toNat = m.toNat →
      decodeFamily0 lenient w = .ok (i w)) :
    RowDecodes 0xFFFF 0xF0FF m i := by
  refine fun w => ⟨fun hw => ?strict, fun hw => ?lenient⟩
  case strict =>
    have hw : w = m := BitVec.eq_of_toNat_eq ((and_FFFF w).symm.trans (congrArg BitVec.toNat hw))
    subst hw
    have hop : fieldOp w = 0 := by rw [fieldOp_eq_div]; omega
    have hx : (fieldX w).val = 0 := by rw [fieldX_val]; omega
    have hkk : (fieldKk w).toNat = w.toNat := by rw [fieldKk_toNat]; omega
    rw [decode_of_fieldOp_0 _ w hop, h false w (.inr hx) hkk]
  case lenient =>
    obtain ⟨hop, hkk⟩ := fieldOp_fieldKk_of_and_F0FF hw
    rw [decode_of_fieldOp_0 _ w (by omega), h true w (.inl rfl) (by omega)]

/-- A row of family E: the low byte selects, and DECODE_LENIENT does not matter. -/
theorem rowDecodes_of_decodeFamilyE {m : Word} {i : Word → Instr} (hm : m.toNat / 0x1000 = 0xE)
    (h : ∀ w, (fieldKk w).toNat = m.toNat % 0x100 → decodeFamilyE w = .ok (i w)) :
    RowDecodes 0xF0FF 0xF0FF m i := by
  have hdecode (lenient : Bool) (w : Word) (hw : w &&& 0xF0FF#16 = m) : decode lenient w = .ok (i w) := by
    obtain ⟨hop, hkk⟩ := fieldOp_fieldKk_of_and_F0FF hw
    rw [decode_of_fieldOp_E lenient w (hop.trans hm), h w hkk]
  exact fun w => ⟨hdecode false w, hdecode true w⟩

/-- Every row decodes to its instruction: one case per family, the selector deciding within it (R74, R75). -/
theorem rowDecodes (i : Instr) : RowDecodes i.row.mask i.row.lenientMask i.row.mtch i.withFieldsOf := by
  cases i <;> simp only [Instr.row]
  case cls | ret =>
    exact rowDecodes_of_decodeFamily0 (by decide) fun lenient w hx hkk => by
      simp only [decodeFamily0, hkk]
      rcases hx with hx | hx <;> simp [hx, Instr.withFieldsOf]
  case jp | call | seVxKk | sneVxKk | ldVxKk | addVxKk | ldI | jpV0 | rnd | drw =>
    exact rowDecodes_of_fieldOp fun lenient w h => by simp only [decode, h]; rfl
  case seVxVy => exact rowDecodes_of_decodePair rfl decode_of_fieldOp_5
  case sneVxVy => exact rowDecodes_of_decodePair rfl decode_of_fieldOp_9
  case ldVxVy | or | and | xor | addVxVy | sub | shr | subn | shl =>
    exact rowDecodes_of_decodeFamily8 rfl fun w h => by simp only [decodeFamily8, h]; rfl
  case skp | sknp => exact rowDecodes_of_decodeFamilyE rfl fun w h => by simp only [decodeFamilyE, h]; rfl
  case ldVxDt | ldVxK | ldDtVx | ldStVx | addIVx | ldFVx | ldBVx | ldMemVx | ldVxMem =>
    exact rowDecodes_of_decodeFamilyF rfl fun w h => by simp only [decodeFamilyF, h]; rfl

theorem decode_of_covers {lenient : Bool} {w : Word} {i : Instr} (h : i.row.covers lenient w) :
    decode lenient w = .ok (i.withFieldsOf w) := by
  cases lenient
  · exact (rowDecodes i w).1 h
  · exact (rowDecodes i w).2 h

/-! ### A word that decodes lies in the row of its instruction -/

theorem and_F000_of_fieldOp {w m : Word} (hop : fieldOp w = m.toNat / 0x1000) (hm : m.toNat % 0x1000 = 0) :
    w &&& 0xF000#16 = m := by
  rw [fieldOp_eq_div] at hop
  apply BitVec.eq_of_toNat_eq
  rw [and_F000]
  omega

theorem and_F00F_of_fields {w m : Word} (hop : fieldOp w = m.toNat / 0x1000) (hn : fieldN w = m.toNat % 0x1000) :
    w &&& 0xF00F#16 = m := by
  rw [fieldOp_eq_div] at hop
  rw [fieldN_eq_mod] at hn
  apply BitVec.eq_of_toNat_eq
  rw [and_F00F]
  omega

theorem and_F0FF_of_fields {w m : Word} (hop : fieldOp w = m.toNat / 0x1000)
    (hkk : (fieldKk w).toNat = m.toNat % 0x1000) : w &&& 0xF0FF#16 = m := by
  rw [fieldOp_eq_div] at hop
  rw [fieldKk_toNat] at hkk
  apply BitVec.eq_of_toNat_eq
  rw [and_F0FF]
  omega

theorem eq_of_fields {w m : Word} (hop : fieldOp w = m.toNat / 0x1000) (hx : (fieldX w).val = m.toNat / 0x100 % 0x10)
    (hkk : (fieldKk w).toNat = m.toNat % 0x100) : w = m := by
  rw [fieldOp_eq_div] at hop
  rw [fieldX_val] at hx
  rw [fieldKk_toNat] at hkk
  exact BitVec.eq_of_toNat_eq (by omega)

/-- What decoding w to i says: w lies in i's row, i's fields are those of w, and i is well formed. -/
def DecodesTo (lenient : Bool) (w : Word) (i : Instr) : Prop :=
  i.row.covers lenient w ∧ i.withFieldsOf w = i ∧ i.wellFormed = true

theorem covers_of_same_masks {i : Instr} {w : Word} (lenient : Bool) (hmask : i.row.lenientMask = i.row.mask)
    (h : w &&& i.row.mask = i.row.mtch) : i.row.covers lenient w := by
  cases lenient <;> simpa [OpRow.covers, OpRow.maskFor, hmask] using h

theorem decodesTo_of_decodeFamily8 (lenient : Bool) {w : Word} {i : Instr} (hop : fieldOp w = 8)
    (h : decodeFamily8 w = .ok i) : DecodesTo lenient w i := by
  unfold decodeFamily8 at h
  split at h
  case h_10 => cases h
  all_goals
    rename_i hn
    cases h
    refine ⟨covers_of_same_masks lenient rfl ?_, rfl, rfl⟩
    simp only [Instr.row]
    exact and_F00F_of_fields hop hn

theorem decodesTo_of_decodeFamilyE (lenient : Bool) {w : Word} {i : Instr} (hop : fieldOp w = 0xE)
    (h : decodeFamilyE w = .ok i) : DecodesTo lenient w i := by
  unfold decodeFamilyE at h
  split at h
  case h_3 => cases h
  all_goals
    rename_i hkk
    cases h
    refine ⟨covers_of_same_masks lenient rfl ?_, rfl, rfl⟩
    simp only [Instr.row]
    exact and_F0FF_of_fields hop hkk

theorem decodesTo_of_decodeFamilyF (lenient : Bool) {w : Word} {i : Instr} (hop : fieldOp w = 0xF)
    (h : decodeFamilyF w = .ok i) : DecodesTo lenient w i := by
  unfold decodeFamilyF at h
  split at h
  case h_10 => cases h
  all_goals
    rename_i hkk
    cases h
    refine ⟨covers_of_same_masks lenient rfl ?_, rfl, rfl⟩
    simp only [Instr.row]
    exact and_F0FF_of_fields hop hkk

theorem decodesTo_of_decodeFamily0 {lenient : Bool} {w : Word} {i : Instr} (hop : fieldOp w = 0)
    (h : decodeFamily0 lenient w = .ok i) : DecodesTo lenient w i := by
  unfold decodeFamily0 at h
  split at h
  case isFalse => cases h
  rename_i hx
  split at h
  case h_3 => cases h
  all_goals
    rename_i hkk
    cases h
    refine ⟨?_, rfl, rfl⟩
    cases lenient
    case true => exact and_F0FF_of_fields hop hkk
    case false =>
      have hx : (fieldX w).val = 0 := by simpa using hx
      have hword : w &&& 0xFFFF#16 = w := BitVec.eq_of_toNat_eq (and_FFFF w)
      refine hword.trans ?_
      simp only [Instr.row]
      exact eq_of_fields hop hx hkk

/-- Families 5 and 9: the strict decoder has seen that the low nibble is 0. -/
theorem decodesTo_of_decodePair {lenient : Bool} {w : Word} {i j : Instr} (m : Word)
    (h : decodePair lenient w j = .ok i)
    (hstrict : j.row.mask = 0xF00F#16) (hlenient : j.row.lenientMask = 0xF000#16)
    (hmtch : j.row.mtch = m)
    (hop : fieldOp w = m.toNat / 0x1000) (hm : m.toNat % 0x1000 = 0)
    (hfields : j.withFieldsOf w = j) (hwf : j.wellFormed = true) : DecodesTo lenient w i := by
  unfold decodePair at h
  split at h
  case isFalse => cases h
  rename_i hn
  cases h
  refine ⟨?_, hfields, hwf⟩
  cases lenient
  case true =>
    show w &&& i.row.lenientMask = i.row.mtch
    rw [hlenient, hmtch, and_F000_of_fieldOp hop hm]
  case false =>
    have hn : fieldN w = 0 := by simpa using hn
    show w &&& i.row.mask = i.row.mtch
    rw [hstrict, hmtch, and_F00F_of_fields hop (hn.trans hm.symm)]

theorem decodesTo_of_decode {lenient : Bool} {w : Word} {i : Instr} (h : decode lenient w = .ok i) :
    DecodesTo lenient w i := by
  unfold decode at h
  split at h
  case h_1 hop => exact decodesTo_of_decodeFamily0 hop h
  case h_6 hop => exact decodesTo_of_decodePair 0x5000#16 h rfl rfl rfl hop rfl rfl rfl
  case h_9 hop => exact decodesTo_of_decodeFamily8 lenient hop h
  case h_10 hop => exact decodesTo_of_decodePair 0x9000#16 h rfl rfl rfl hop rfl rfl rfl
  case h_15 hop => exact decodesTo_of_decodeFamilyE lenient hop h
  case h_16 hop => exact decodesTo_of_decodeFamilyF lenient hop h
  case h_17 => cases h
  case h_14 hop =>
    cases h
    have hn : fieldN w ≤ 15 := by rw [fieldN_eq_mod]; omega
    refine ⟨covers_of_same_masks lenient rfl ?_, rfl, by simpa [Instr.wellFormed] using hn⟩
    simp only [Instr.row]
    exact and_F000_of_fieldOp hop rfl
  all_goals
    rename_i hop
    cases h
    refine ⟨covers_of_same_masks lenient rfl ?_, rfl, rfl⟩
    simp only [Instr.row]
    exact and_F000_of_fieldOp hop rfl

/-! ### Encoding and decoding are inverse -/

theorem fieldNnn_wordA (op : Nat) (hop : op < 16) (nnn : Addr) : fieldNnn (wordA op nnn) = nnn := by
  have hn := nnn.isLt
  apply BitVec.eq_of_toNat_eq
  rw [fieldNnn_toNat, wordA_toNat op hop]
  omega

theorem fieldX_wordXK (op : Nat) (hop : op < 16) (x : RegIdx) (kk : Byte) : fieldX (wordXK op x kk) = x := by
  have hk := kk.isLt
  apply Fin.ext
  rw [fieldX_val, wordXK_toNat op hop]
  omega

theorem fieldKk_wordXK (op : Nat) (hop : op < 16) (x : RegIdx) (kk : Byte) : fieldKk (wordXK op x kk) = kk := by
  have hk := kk.isLt
  apply BitVec.eq_of_toNat_eq
  rw [fieldKk_toNat, wordXK_toNat op hop]
  omega

theorem fieldX_wordXYN (op : Nat) (hop : op < 16) (x y : RegIdx) (n : Nat) (hn : n < 16) :
    fieldX (wordXYN op x y n) = x := by
  apply Fin.ext
  rw [fieldX_val, wordXYN_toNat op hop x y n hn]
  omega

theorem fieldY_wordXYN (op : Nat) (hop : op < 16) (x y : RegIdx) (n : Nat) (hn : n < 16) :
    fieldY (wordXYN op x y n) = y := by
  apply Fin.ext
  rw [fieldY_val, wordXYN_toNat op hop x y n hn]
  omega

theorem fieldN_wordXYN (op : Nat) (hop : op < 16) (x y : RegIdx) (n : Nat) (hn : n < 16) :
    fieldN (wordXYN op x y n) = n := by
  rw [fieldN_eq_mod, wordXYN_toNat op hop x y n hn]
  omega

/-- The fields of an encoded instruction are its operands. -/
theorem withFieldsOf_encode {i : Instr} (h : i.wellFormed = true) : i.withFieldsOf (encode i) = i := by
  cases i with
  | cls | ret => rfl
  | jp nnn | call nnn | ldI nnn | jpV0 nnn => simp [Instr.withFieldsOf, encode, fieldNnn_wordA]
  | seVxKk x kk | sneVxKk x kk | ldVxKk x kk | addVxKk x kk | rnd x kk =>
    simp [Instr.withFieldsOf, encode, fieldX_wordXK, fieldKk_wordXK]
  | seVxVy x y | ldVxVy x y | or x y | and x y | xor x y | addVxVy x y | sub x y | shr x y | subn x y | shl x y
  | sneVxVy x y => simp [Instr.withFieldsOf, encode, fieldX_wordXYN, fieldY_wordXYN]
  | drw x y n =>
    have hn : n < 16 := Nat.lt_succ_of_le (of_decide_eq_true h)
    simp [Instr.withFieldsOf, encode, fieldX_wordXYN, fieldY_wordXYN, fieldN_wordXYN, hn]
  | skp x | sknp x | ldVxDt x | ldVxK x | ldDtVx x | ldStVx x | addIVx x | ldFVx x | ldBVx x | ldMemVx x | ldVxMem x =>
    simp [Instr.withFieldsOf, encode, fieldX_wordXK]

/-- A word is its family nibble and its address. -/
theorem wordA_fields {w : Word} {op : Nat} (hop : fieldOp w = op) : wordA op (fieldNnn w) = w := by
  rw [fieldOp_eq_div] at hop
  apply BitVec.eq_of_toNat_eq
  rw [wordA_toNat op (by omega), fieldNnn_toNat]
  omega

/-- A word is its family nibble, its x and its low byte. -/
theorem wordXK_fields {w : Word} {op : Nat} {kk : Byte} (hop : fieldOp w = op)
    (hkk : (fieldKk w).toNat = kk.toNat) : wordXK op (fieldX w) kk = w := by
  rw [fieldOp_eq_div] at hop
  rw [fieldKk_toNat] at hkk
  apply BitVec.eq_of_toNat_eq
  rw [wordXK_toNat op (by omega), fieldX_val]
  omega

/-- A word is its four nibbles. -/
theorem wordXYN_fields {w : Word} {op n : Nat} (hop : fieldOp w = op) (hn : fieldN w = n) :
    wordXYN op (fieldX w) (fieldY w) n = w := by
  rw [fieldOp_eq_div] at hop
  rw [fieldN_eq_mod] at hn
  apply BitVec.eq_of_toNat_eq
  rw [wordXYN_toNat op (by omega) _ _ n (by omega), fieldX_val, fieldY_val]
  omega

/-- Under the strict mask of a row, the row's instruction with the word's fields encodes to the word. -/
theorem encode_withFieldsOf {w : Word} {i : Instr} (h : w &&& i.row.mask = i.row.mtch) :
    encode (i.withFieldsOf w) = w := by
  cases i <;> simp only [Instr.row] at h
  case cls | ret => exact h.symm.trans (BitVec.eq_of_toNat_eq (and_FFFF w))
  case jp | call | ldI | jpV0 => exact wordA_fields (fieldOp_of_and_F000 h)
  case seVxKk | sneVxKk | ldVxKk | addVxKk | rnd => exact wordXK_fields (fieldOp_of_and_F000 h) rfl
  case drw => exact wordXYN_fields (fieldOp_of_and_F000 h) rfl
  case seVxVy | ldVxVy | or | and | xor | addVxVy | sub | shr | subn | shl | sneVxVy =>
    obtain ⟨hop, hn⟩ := fieldOp_fieldN_of_and_F00F h
    exact wordXYN_fields hop hn
  case skp | sknp | ldVxDt | ldVxK | ldDtVx | ldStVx | addIVx | ldFVx | ldBVx | ldMemVx | ldVxMem =>
    obtain ⟨hop, hkk⟩ := fieldOp_fieldKk_of_and_F0FF h
    exact wordXK_fields hop hkk

/-- The per-instruction law, for every instruction. -/
theorem encodesToItsRow : ∀ i : Instr, Laws.EncodesToItsRow.Statement i
  | .cls => Laws.EncodesToItsRow.cls
  | .ret => Laws.EncodesToItsRow.ret
  | .jp a => Laws.EncodesToItsRow.jp a
  | .call a => Laws.EncodesToItsRow.call a
  | .seVxKk a b => Laws.EncodesToItsRow.seVxKk a b
  | .sneVxKk a b => Laws.EncodesToItsRow.sneVxKk a b
  | .seVxVy a b => Laws.EncodesToItsRow.seVxVy a b
  | .ldVxKk a b => Laws.EncodesToItsRow.ldVxKk a b
  | .addVxKk a b => Laws.EncodesToItsRow.addVxKk a b
  | .ldVxVy a b => Laws.EncodesToItsRow.ldVxVy a b
  | .or a b => Laws.EncodesToItsRow.or a b
  | .and a b => Laws.EncodesToItsRow.and a b
  | .xor a b => Laws.EncodesToItsRow.xor a b
  | .addVxVy a b => Laws.EncodesToItsRow.addVxVy a b
  | .sub a b => Laws.EncodesToItsRow.sub a b
  | .shr a b => Laws.EncodesToItsRow.shr a b
  | .subn a b => Laws.EncodesToItsRow.subn a b
  | .shl a b => Laws.EncodesToItsRow.shl a b
  | .sneVxVy a b => Laws.EncodesToItsRow.sneVxVy a b
  | .ldI a => Laws.EncodesToItsRow.ldI a
  | .jpV0 a => Laws.EncodesToItsRow.jpV0 a
  | .rnd a b => Laws.EncodesToItsRow.rnd a b
  | .drw a b c => Laws.EncodesToItsRow.drw a b c
  | .skp a => Laws.EncodesToItsRow.skp a
  | .sknp a => Laws.EncodesToItsRow.sknp a
  | .ldVxDt a => Laws.EncodesToItsRow.ldVxDt a
  | .ldVxK a => Laws.EncodesToItsRow.ldVxK a
  | .ldDtVx a => Laws.EncodesToItsRow.ldDtVx a
  | .ldStVx a => Laws.EncodesToItsRow.ldStVx a
  | .addIVx a => Laws.EncodesToItsRow.addIVx a
  | .ldFVx a => Laws.EncodesToItsRow.ldFVx a
  | .ldBVx a => Laws.EncodesToItsRow.ldBVx a
  | .ldMemVx a => Laws.EncodesToItsRow.ldMemVx a
  | .ldVxMem a => Laws.EncodesToItsRow.ldVxMem a

theorem covers_encode (lenient : Bool) {i : Instr} (h : i.wellFormed = true) : i.row.covers lenient (encode i) := by
  cases lenient
  · exact (encodesToItsRow i h).1
  · exact (encodesToItsRow i h).2

/-- Settles O2: the encoding lies in the row of the instruction, and its fields are the operands. -/
theorem decodeEncodeRoundTrip : Obligations.DecodeEncodeRoundTrip := fun lenient i h => by
  rw [decode_of_covers (covers_encode lenient h), withFieldsOf_encode h]

/-- Settles O3: a decoded word lies in its instruction's row, whose strict mask leaves only the fields open. -/
theorem strictDecodeIsInjective : Obligations.StrictDecodeIsInjective := fun w i h => by
  obtain ⟨hrow, hfields, hwf⟩ := decodesTo_of_decode h
  refine ⟨hwf, ?_⟩
  have hencode := encode_withFieldsOf hrow
  rwa [hfields] at hencode

/-! ### The opcode table -/

theorem row_mem_opcodeTable (i : Instr) : i.row ∈ opcodeTable := by
  cases i <;> simp [opcodeTable, rowSamples, Instr.row]

/-- The words of i's row are the words that decode to an instruction of that row. -/
theorem covers_row_iff (lenient : Bool) (w : Word) (i : Instr) :
    i.row.covers lenient w ↔ ∃ j, decode lenient w = .ok j ∧ j.row = i.row := by
  refine ⟨fun h => ⟨_, decode_of_covers h, row_withFieldsOf w i⟩, fun ⟨j, hj, hrow⟩ => ?_⟩
  rw [← hrow]
  exact (decodesTo_of_decode hj).1

/-- Settles O4: each row of the table is the row of an instruction. -/
theorem decoderFollowsOpcodeTable : Obligations.DecoderFollowsOpcodeTable := by
  refine ⟨fun lenient w row hrow => ?_, row_mem_opcodeTable, rfl⟩
  obtain ⟨i, -, rfl⟩ := List.mem_map.1 hrow
  exact covers_row_iff lenient w i

/-- Settles O5: a word decodes to one instruction, which has one row. -/
theorem opcodeRowsExclusive : Obligations.OpcodeRowsExclusive := by
  intro lenient w r₁ r₂ h₁ h₂ hc₁ hc₂
  obtain ⟨i₁, -, rfl⟩ := List.mem_map.1 h₁
  obtain ⟨i₂, -, rfl⟩ := List.mem_map.1 h₂
  have hsame : Instr.withFieldsOf w i₁ = Instr.withFieldsOf w i₂ :=
    Except.ok.inj ((decode_of_covers hc₁).symm.trans (decode_of_covers hc₂))
  rw [← row_withFieldsOf w i₁, hsame, row_withFieldsOf]

/-! ### The unknown-opcode space (R78) -/

theorem decode_total (lenient : Bool) (w : Word) :
    (∃ i, decode lenient w = .ok i) ∨ decode lenient w = .error (.unknownOpcode w) := by
  unfold decode decodeFamily0 decodeFamily8 decodeFamilyE decodeFamilyF decodePair
  repeat' split
  all_goals simp

theorem decodePair_error_iff (lenient : Bool) (w : Word) (i : Instr) :
    decodePair lenient w i = .error (.unknownOpcode w) ↔ lenient = false ∧ fieldN w ≠ 0 := by
  cases lenient <;> simp [decodePair]

theorem decodeFamily0_error_iff (lenient : Bool) (w : Word) :
    decodeFamily0 lenient w = .error (.unknownOpcode w) ↔
      ¬ ((lenient = true ∨ (fieldX w).val = 0) ∧ (fieldKk w).toNat ∈ [0xE0, 0xEE]) := by
  unfold decodeFamily0
  repeat' split
  all_goals simp_all

theorem decodeFamily8_error_iff (w : Word) :
    decodeFamily8 w = .error (.unknownOpcode w) ↔ fieldN w ∈ [0x8, 0x9, 0xA, 0xB, 0xC, 0xD, 0xF] := by
  have hn : fieldN w < 16 := by rw [fieldN_eq_mod]; omega
  unfold decodeFamily8
  split
  case h_10 => simp only [imp_false, List.mem_cons, List.not_mem_nil, true_iff] at *; omega
  all_goals simp_all

theorem decodeFamilyE_error_iff (w : Word) :
    decodeFamilyE w = .error (.unknownOpcode w) ↔ (fieldKk w).toNat ∉ [0x9E, 0xA1] := by
  unfold decodeFamilyE
  split <;> simp_all

theorem decodeFamilyF_error_iff (w : Word) :
    decodeFamilyF w = .error (.unknownOpcode w) ↔
      (fieldKk w).toNat ∉ [0x07, 0x0A, 0x15, 0x18, 0x1E, 0x29, 0x33, 0x55, 0x65] := by
  unfold decodeFamilyF
  split <;> simp_all

/-- The words that a decoder refuses, family by family. -/
theorem decode_error_iff (lenient : Bool) (w : Word) : decode lenient w = .error (.unknownOpcode w) ↔
    (fieldOp w = 0x0 ∧ ¬ ((lenient = true ∨ (fieldX w).val = 0) ∧ (fieldKk w).toNat ∈ [0xE0, 0xEE])) ∨
    (fieldOp w = 0x5 ∧ lenient = false ∧ fieldN w ≠ 0) ∨
    (fieldOp w = 0x8 ∧ fieldN w ∈ [0x8, 0x9, 0xA, 0xB, 0xC, 0xD, 0xF]) ∨
    (fieldOp w = 0x9 ∧ lenient = false ∧ fieldN w ≠ 0) ∨
    (fieldOp w = 0xE ∧ (fieldKk w).toNat ∉ [0x9E, 0xA1]) ∨
    (fieldOp w = 0xF ∧ (fieldKk w).toNat ∉ [0x07, 0x0A, 0x15, 0x18, 0x1E, 0x29, 0x33, 0x55, 0x65]) := by
  have hop : fieldOp w < 16 := by rw [fieldOp_eq_div]; omega
  unfold decode
  split
  case h_17 => simp only [imp_false] at *; omega
  all_goals
    simp [*, decodeFamily0_error_iff, decodePair_error_iff, decodeFamily8_error_iff, decodeFamilyE_error_iff,
      decodeFamilyF_error_iff]

/-- In family 0 the two strict words are those with x = 0 and the low byte of CLS or RET. -/
theorem family0_strict_iff {w : Word} (hop : fieldOp w = 0) :
    (w ≠ 0x00E0#16 ∧ w ≠ 0x00EE#16) ↔ ¬ ((fieldX w).val = 0 ∧ (fieldKk w).toNat ∈ [0xE0, 0xEE]) := by
  rw [fieldOp_eq_div] at hop
  rw [fieldX_val, fieldKk_toNat, Ne, Ne, ← BitVec.toNat_inj, ← BitVec.toNat_inj]
  simp only [BitVec.toNat_ofNat, List.mem_cons, List.not_mem_nil, or_false]
  omega

/-- Settles O1: the seven words are decoded. -/
theorem sampleWordsDecode : Obligations.SampleWordsDecode := by
  unfold Obligations.SampleWordsDecode
  decide

/-- Settles O6: the families refuse the words of their own lemmas, and DECODE_LENIENT matters in 0, 5 and 9 only. -/
theorem unknownOpcodeSpace : Obligations.UnknownOpcodeSpace := by
  refine ⟨fun w => ?_, decode_total false, fun w => ?_⟩
  · rw [decode_error_iff]
    by_cases hop : fieldOp w = 0
    · simp [hop, family0_strict_iff hop]
    · simp [hop]
  · rw [decode_error_iff, decode_error_iff]
    by_cases hpair : fieldOp w = 5 ∨ fieldOp w = 9
    · rcases hpair with hop | hop <;> simp [hop]
    · obtain ⟨h5, h9⟩ := not_or.1 hpair
      by_cases hop : fieldOp w = 0
      · simp +contextual [hop]
      · simp [hop, h5, h9]

end Sys2Proof
end

section
/-! PROOF. The frame of each update of the state, once, and the instructions that are one row of such updates: the ALU
results (spec/43_alu.md R146 to R151), the key skips (spec/42_skip.md R134, R135), the call stack
(spec/41_control_flow.md R120, R122), CLS (spec/45_display.md R170) and the issue of the key wait
(spec/46_timer_input.md R181). -/

namespace Sys2Proof.Machine

/-! ### Frames -/

theorem ChangesOnly.mono {ps qs : List Part} {s t : State} (h : ChangesOnly ps s t) (hsub : ps ⊆ qs) :
    ChangesOnly qs s t := fun p hp => h p (mt (fun hmem => hsub hmem) hp)

theorem Part.same_refl (p : Part) (s : State) : p.same s s := by
  cases p <;> simp [Part.same]

theorem ChangesOnly.refl (ps : List Part) (s : State) : ChangesOnly ps s s := fun p _ => p.same_refl s

/-- A part that is the same after all need not be named. -/
theorem ChangesOnly.drop {q : Part} {ps : List Part} {s t : State} (h : ChangesOnly (q :: ps) s t)
    (hq : q.same s t) : ChangesOnly ps s t := by
  intro p hp
  by_cases hpq : p = q
  · exact hpq ▸ hq
  · exact h p (by simp [hpq, hp])

theorem changesOnly_singleton {q : Part} {s t : State} (h : ∀ p, p ≠ q → p.same s t) : ChangesOnly [q] s t :=
  fun p hp => h p (by simpa using hp)

theorem changesOnly_setSp (s : State) (j : BitVec 4) : ChangesOnly [.sp] s (s.setSp j) :=
  changesOnly_singleton fun p hp => by cases p <;> simp_all [Part.same]

theorem changesOnly_setStackAt (s : State) (j : BitVec 4) (w : Word) : ChangesOnly [.stack] s (s.setStackAt j w) :=
  changesOnly_singleton fun p hp => by cases p <;> simp_all [Part.same]

theorem changesOnly_setFb (s : State) (g : Vector (Vector Bool 32) 64) : ChangesOnly [.fb] s (s.setFb g) :=
  changesOnly_singleton fun p hp => by cases p <;> simp_all [Part.same]

theorem changesOnly_setMode (s : State) (m : Mode) : ChangesOnly [.mode] s (s.setMode m) :=
  changesOnly_singleton fun p hp => by cases p <;> simp_all [Part.same]

theorem changesOnly_setIpfCnt (s : State) (n : Nat) : ChangesOnly [.ipfCnt] s (s.setIpfCnt n) :=
  changesOnly_singleton fun p hp => by cases p <;> simp_all [Part.same]

theorem changesOnly_setDivCnt (s : State) (n : Nat) : ChangesOnly [.divCnt] s (s.setDivCnt n) :=
  changesOnly_singleton fun p hp => by cases p <;> simp_all [Part.same]

theorem changesOnly_setOut (s : State) (o : Signals) : ChangesOnly [.strobes] s (s.setOut o) :=
  changesOnly_singleton fun p hp => by cases p <;> simp_all [Part.same]

theorem changesOnly_setAgenda (s : State) (es : List Event) :
    ChangesOnly [.agenda] s (s.setEnv { s.env with agenda := es }) :=
  changesOnly_singleton fun p hp => by cases p <;> simp_all [Part.same]

theorem changesOnly_setKeyLevels (s : State) (levels : BitVec 16) :
    ChangesOnly [.keyLevels] s (s.setEnv { s.env with key := levels }) :=
  changesOnly_singleton fun p hp => by cases p <;> simp_all [Part.same]

theorem changesOnly_writeBytes (f : Nat → Byte) (ea n : Nat) (s : State) :
    ChangesOnly [.mem] s (State.writeBytes f ea n s) :=
  changesOnly_singleton fun p hp => by cases p <;> simp_all [Part.same]

theorem changesOnly_setRegs (f : Nat → Byte) (n : Nat) (s : State) :
    ChangesOnly [.regs] s (State.setRegs f n s) :=
  changesOnly_singleton fun p hp => by cases p <;> simp_all [Part.same]

theorem changesOnly_suspend (s : State) (x : RegIdx) : ChangesOnly [.mode, .wx] s (s.suspend x) := by
  intro p hp
  cases p <;> simp_all [Part.same]

theorem changesOnly_raiseFault (s : State) (code : FaultCode) (info : BitVec 17) :
    ChangesOnly [.mode, .fault] s (s.raiseFault code info) := by
  intro p hp
  cases p <;> simp_all [Part.same]

theorem faultResult_raiseFault (s : State) (code : FaultCode) (info : BitVec 17) :
    FaultResult code info.toNat s (s.raiseFault code info) :=
  ⟨rfl, rfl, rfl, changesOnly_raiseFault s code info⟩

theorem changesOnly_setFlagged_advance (s : State) (flag : Bool) (x : RegIdx) (result : Byte) :
    ChangesOnly [.regs, .pc] s (s.setFlagged flag x result).advance :=
  (((changesOnly_setReg s regF (flagByte flag)).trans (changesOnly_setReg _ x result)).trans
    (changesOnly_setPc _ _)).mono (by decide)

/-! ### ALU results -/

/-- What a flag-writing instruction leaves beside VF, when its result is known as a number. -/
theorem completes_setFlagged {i : Instr} {s : State} {x : RegIdx} {flag : Bool} {result : Byte} {n : Nat}
    (hexec : exec i s = .next (s.setFlagged flag x result).advance) (hresult : result.toNat = n) :
    Completes i s (fun t => (t.reg x).toNat = n ∧ (∀ z, z ≠ x → z ≠ regF → t.reg z = s.reg z) ∧
      t.pc = s.pc + 2 ∧ ChangesOnly [.regs, .pc] s t) := by
  refine ⟨_, hexec, ?result, fun z hx hF => ?others, rfl, changesOnly_setFlagged_advance s flag x result⟩
  case result => simpa using hresult
  case others => simp [State.setReg_reg, hx, hF]

theorem sub_toNat_eq (a b : Byte) : (a - b).toNat = (a.toNat + 256 - b.toNat) % 256 := by
  have hb := b.isLt
  rw [BitVec.toNat_sub]
  omega

theorem ushiftRight_one_toNat (a : Byte) : (a >>> 1).toNat = a.toNat / 2 := by
  rw [BitVec.toNat_ushiftRight, Nat.shiftRight_eq_div_pow, Nat.pow_one]

theorem shiftLeft_one_toNat (a : Byte) : (a <<< 1).toNat = a.toNat * 2 % 256 := by
  rw [BitVec.toNat_shiftLeft, Nat.shiftLeft_eq, Nat.pow_one]

/-- Settles O11: the five write a flag and then the result, whose number is the library's. -/
theorem aluResultsReplaceTheFlag : Obligations.AluResultsReplaceTheFlag := fun s x y =>
  ⟨completes_setFlagged (exec_addVxVy x y s) (BitVec.toNat_add _ _),
    completes_setFlagged (exec_sub x y s) (sub_toNat_eq _ _),
    completes_setFlagged (exec_subn x y s) (sub_toNat_eq _ _),
    completes_setFlagged (exec_shr x y s) (ushiftRight_one_toNat _),
    completes_setFlagged (exec_shl x y s) (shiftLeft_one_toNat _)⟩

/-! ### The random byte -/

theorem exec_rnd (x : RegIdx) (kk : Byte) (s : State) :
    exec (.rnd x kk) s = .next ((s.setEnv s.env.afterSample).setReg x (s.rndByte &&& kk)).advance := rfl

theorem rndByte_of_feed {s : State} {b : Byte} {rest : List Byte} (h : s.env.rndFeed = b :: rest) :
    s.rndByte = b := by
  simp only [State.rndByte, h]

theorem rndByte_of_no_feed {s : State} (h : s.env.rndFeed = []) : s.rndByte = Config.freeByte s.env.rndCount := by
  simp only [State.rndByte, h]

theorem afterSample_of_feed {e : Env} {b : Byte} {rest : List Byte} (h : e.rndFeed = b :: rest) :
    e.afterSample = { e with rndFeed := rest } := by
  simp only [Env.afterSample, h]

theorem afterSample_of_no_feed {e : Env} (h : e.rndFeed = []) :
    e.afterSample = { e with rndCount := e.rndCount + 1 } := by
  simp only [Env.afterSample, h]

@[simp] theorem afterSample_agenda (e : Env) : e.afterSample.agenda = e.agenda := by
  unfold Env.afterSample
  split <;> rfl

@[simp] theorem afterSample_key (e : Env) : e.afterSample.key = e.key := by
  unfold Env.afterSample
  split <;> rfl

theorem changesOnly_afterSample (s : State) : ChangesOnly [.rnd] s (s.setEnv s.env.afterSample) :=
  changesOnly_singleton fun p hp => by cases p <;> simp_all [Part.same]

theorem changesOnly_rnd (x : RegIdx) (b : Byte) (s : State) :
    ChangesOnly [.regs, .pc, .rnd] s ((s.setEnv s.env.afterSample).setReg x b).advance :=
  (((changesOnly_afterSample s).trans (changesOnly_setReg _ x b)).trans (changesOnly_setPc _ _)).mono (by decide)

/-- Settles O12: the sample is the fixed byte or the free value, and the environment moves on accordingly. -/
theorem randomByteIsMasked : Obligations.RandomByteIsMasked := by
  refine fun s x kk => ⟨_, exec_rnd x kk s, fun b rest hfeed => ?fixed, fun hfeed => ?free, fun z hz => ?others, rfl,
    changesOnly_rnd x _ s⟩
  case fixed => simp [rndByte_of_feed hfeed, afterSample_of_feed hfeed]
  case free => simp [rndByte_of_no_feed hfeed, afterSample_of_no_feed hfeed, hfeed]
  case others => simp [State.setReg_reg, hz]

/-! ### Key skips -/

theorem exec_skp_of_some {x : RegIdx} {s : State} {k : Key} (h : s.keyIndex (s.reg x) = some k) :
    exec (.skp x) s = .next (s.skipIf (s.keyDown k)) := by
  simp only [exec, execSkp, h]

theorem exec_sknp_of_some {x : RegIdx} {s : State} {k : Key} (h : s.keyIndex (s.reg x) = some k) :
    exec (.sknp x) s = .next (s.skipIf (!s.keyDown k)) := by
  simp only [exec, execSknp, h]

theorem exec_skp_of_none {x : RegIdx} {s : State} (h : s.keyIndex (s.reg x) = none) :
    exec (.skp x) s = .next (s.raiseFault .keyRange ((s.reg x).setWidth 17)) := by
  simp only [exec, execSkp, h]

theorem exec_sknp_of_none {x : RegIdx} {s : State} (h : s.keyIndex (s.reg x) = none) :
    exec (.sknp x) s = .next (s.raiseFault .keyRange ((s.reg x).setWidth 17)) := by
  simp only [exec, execSknp, h]

theorem keyDown_regIdx (s : State) (n : Nat) : s.keyDown (regIdx n) = s.env.key.getLsbD (n % 16) := rfl

/-- Settles O14: the key index is the low nibble, and the two skips ask for opposite levels. -/
theorem keySkips : Obligations.KeySkips := by
  intro s x h
  have hkey := keyIndex_some s (s.reg x) h
  refine ⟨⟨_, exec_skp_of_some hkey, rfl, changesOnly_setPc s _⟩,
    ⟨_, exec_sknp_of_some hkey, ?_, changesOnly_setPc s _⟩⟩
  simp only [State.skipIf_eq, State.setPc_pc, keyDown_regIdx]
  cases s.env.key.getLsbD ((s.reg x).toNat % 16) <;> rfl

/-- Settles O15: the index is refused before the level is asked for. -/
theorem keyIndexFault : Obligations.KeyIndexFault := by
  intro s x hx hp
  have hinfo : ((s.reg x).setWidth 17).toNat = (s.reg x).toNat := BitVec.toNat_setWidth_of_le (by decide)
  have hfault := faultResult_raiseFault s .keyRange ((s.reg x).setWidth 17)
  rw [hinfo] at hfault
  have hnone := keyIndex_none s (s.reg x) hx hp
  exact ⟨⟨_, exec_skp_of_none hnone, hfault⟩, ⟨_, exec_sknp_of_none hnone, hfault⟩⟩

/-! ### The call stack -/

theorem exec_call (nnn : Addr) (s : State) :
    exec (.call nnn) s = if s.sp = 15 then .next (s.raiseFault .stackOverflow (s.sp.setWidth 17))
      else .next ((s.push s.pc).setPc (zextAddr nnn)) := rfl

theorem exec_ret (s : State) :
    exec .ret s = if s.sp = 0 then .next (s.raiseFault .stackUnderflow (s.sp.setWidth 17))
      else .next ((s.setSp (s.sp - 1)).setPc (s.stackAt s.sp + 2)) := rfl

theorem exec_call_of_lt (nnn : Addr) {s : State} (h : s.sp.toNat < 15) :
    exec (.call nnn) s = .next ((s.push s.pc).setPc (zextAddr nnn)) := by
  rw [exec_call, if_neg (by intro hsp; simp [hsp] at h)]

theorem exec_ret_of_pos {s : State} (h : 0 < s.sp.toNat) :
    exec .ret s = .next ((s.setSp (s.sp - 1)).setPc (s.stackAt s.sp + 2)) := by
  rw [exec_ret, if_neg (by intro hsp; simp [hsp] at h)]

theorem sp_succ_toNat {j : BitVec 4} (h : j.toNat < 15) : (j + 1).toNat = j.toNat + 1 :=
  BitVec.toNat_add_of_lt (Nat.succ_lt_succ h)

theorem sp_pred_toNat {j : BitVec 4} (h : 0 < j.toNat) : (j - 1).toNat + 1 = j.toNat := by
  have hj := j.isLt
  rw [BitVec.toNat_sub]
  show (2 ^ 4 - 1 + j.toNat) % 2 ^ 4 + 1 = j.toNat
  omega

theorem push_stackAt (s : State) (w : Word) (k : BitVec 4) :
    (s.push w).stackAt k = if k = s.sp + 1 then w else s.stackAt k :=
  State.setStackAt_stackAt (s.setSp (s.sp + 1)) (s.sp + 1) w k

theorem changesOnly_call (s : State) (w pc : Word) : ChangesOnly [.sp, .stack, .pc] s ((s.push w).setPc pc) :=
  ((changesOnly_setSp s _).trans (changesOnly_setStackAt _ _ _)).trans (changesOnly_setPc _ _)

theorem changesOnly_ret (s : State) (j : BitVec 4) (pc : Word) : ChangesOnly [.sp, .pc] s ((s.setSp j).setPc pc) :=
  (changesOnly_setSp s j).trans (changesOnly_setPc _ _)

/-- Settles O17: within the bounds neither instruction faults, and SP does not wrap. -/
theorem callAndReturn : Obligations.CallAndReturn := by
  refine fun s nnn => ⟨fun h => ⟨_, exec_call_of_lt nnn h, sp_succ_toNat h, ?top, fun j hj => ?others,
    zextAddr_toNat nnn, changesOnly_call s _ _⟩, fun h => ⟨_, exec_ret_of_pos h, sp_pred_toNat h, rfl,
    changesOnly_ret s _ _⟩⟩
  case top => exact (push_stackAt s s.pc _).trans (if_pos rfl)
  case others => exact (push_stackAt s s.pc j).trans (if_neg hj)

/-- Settles O18: at the ends of the stack SP is the information. -/
theorem stackFaults : Obligations.StackFaults := by
  refine fun s nnn => ⟨fun h => ?overflow, fun h => ?underflow⟩
  case overflow =>
    have hsp : s.sp = 15 := BitVec.eq_of_toNat_eq h
    exact ⟨_, by rw [exec_call, if_pos hsp, hsp], faultResult_raiseFault s _ _⟩
  case underflow =>
    have hsp : s.sp = 0 := BitVec.eq_of_toNat_eq h
    exact ⟨_, by rw [exec_ret, if_pos hsp, hsp], faultResult_raiseFault s _ _⟩

/-- Settles O19: RET reads the entry that CALL wrote. -/
theorem returnUndoesCall : Obligations.ReturnUndoesCall := by
  intro s nnn h
  have hpos : 0 < ((s.push s.pc).setPc (zextAddr nnn)).sp.toNat := by
    show 0 < (s.sp + 1).toNat
    rw [sp_succ_toNat h]
    exact Nat.succ_pos _
  have hframe := (changesOnly_call s s.pc (zextAddr nnn)).trans
    (changesOnly_ret ((s.push s.pc).setPc (zextAddr nnn)) (s.sp + 1 - 1)
      (((s.push s.pc).setPc (zextAddr nnn)).stackAt (s.sp + 1) + 2))
  have hsp : s.sp + 1 - 1 = s.sp := BitVec.add_sub_cancel _ _
  refine ⟨_, _, exec_call_of_lt nnn h, exec_ret_of_pos hpos, ?pc, hsp, fun j hj => ?others, ?frame⟩
  case pc => exact congrArg (· + 2) ((push_stackAt s s.pc _).trans (if_pos rfl))
  case others => exact (push_stackAt s s.pc j).trans (if_neg hj)
  case frame => exact (hframe.mono (by decide : _ ⊆ [Part.sp, .pc, .stack])).drop hsp

/-! ### CLS, the issue of the key wait, the jump to itself -/

theorem exec_cls (s : State) :
    exec .cls s = .next ((s.setFb (Vector.replicate 64 (Vector.replicate 32 false))).setOut
      { s.out with dispClear := true }).advance := rfl

theorem changesOnly_cls (s : State) (g : Vector (Vector Bool 32) 64) (o : Signals) :
    ChangesOnly [.fb, .strobes, .pc] s ((s.setFb g).setOut o).advance :=
  ((changesOnly_setFb s g).trans (changesOnly_setOut _ o)).trans (changesOnly_setPc _ _)

/-- Settles O26: the replacing framebuffer is dark. -/
theorem clearScreen : Obligations.ClearScreen := fun s =>
  ⟨_, exec_cls s, fun c r => by simp, rfl, rfl, changesOnly_cls s _ _⟩

theorem exec_ldVxK (x : RegIdx) (s : State) : exec (.ldVxK x) s = .next (s.suspend x) := rfl

/-- Settles O32: the issue writes the mode and wx. -/
theorem keyWaitIssue : Obligations.KeyWaitIssue := fun s x =>
  ⟨_, exec_ldVxK x s, rfl, rfl, rfl, changesOnly_suspend s x⟩

theorem setPc_same (s : State) : s.setPc s.pc = s := rfl

/-- Settles O41: the jump writes the pc it found. -/
theorem selfJumpIsFixedPoint : Obligations.SelfJumpIsFixedPoint := fun s nnn h => by
  rw [exec_jp, ← h, setPc_same]

end Sys2Proof.Machine
end

section
/-! PROOF. The memory transfers (spec/44_index_memory.md R163 to R165) and the draw (spec/45_display.md R171 to R173):
what each does when its block fits, and the fault it raises when it does not (spec/20_memory.md R55, R56). -/

namespace Sys2Proof.Machine

/-! ### A block that fits, and one that does not -/

theorem exec_ldBVx_of_blockFits (x : RegIdx) {s : State} (h : s.BlockFits 3) :
    exec (.ldBVx x) s = .next (State.writeBytes (bcdDigit (s.reg x)) (s.dataAddr 0) 3 s).advance :=
  if_pos ((blockInBounds_iff s _).2 h)

theorem exec_ldVxMem_of_blockFits {x : RegIdx} {s : State} (h : s.BlockFits (x.val + 1)) :
    exec (.ldVxMem x) s = .next (State.setRegs s.dataByte (x.val + 1) s).advance :=
  if_pos ((blockInBounds_iff s _).2 h)

theorem exec_ldBVx_of_not_blockFits (x : RegIdx) {s : State} (h : ¬ s.BlockFits 3) :
    exec (.ldBVx x) s = .next (s.raiseFault .memBounds s.memBoundsInfo) :=
  if_neg (mt (blockInBounds_iff s _).1 h)

theorem exec_ldMemVx_of_not_blockFits {x : RegIdx} {s : State} (h : ¬ s.BlockFits (x.val + 1)) :
    exec (.ldMemVx x) s = .next (s.raiseFault .memBounds s.memBoundsInfo) :=
  if_neg (mt (blockInBounds_iff s _).1 h)

theorem exec_ldVxMem_of_not_blockFits {x : RegIdx} {s : State} (h : ¬ s.BlockFits (x.val + 1)) :
    exec (.ldVxMem x) s = .next (s.raiseFault .memBounds s.memBoundsInfo) :=
  if_neg (mt (blockInBounds_iff s _).1 h)

theorem exec_drw_of_not_blockFits (x y : RegIdx) {n : Nat} {s : State} (h : ¬ s.BlockFits n) :
    exec (.drw x y n) s = .next (s.raiseFault .memBounds s.memBoundsInfo) :=
  if_neg (mt (blockInBounds_iff s _).1 h)

/-- Under FAULT a block with a byte above 0xFFF does not fit. -/
theorem not_blockFits {s : State} {n : Nat} (hp : s.params.memOob = .fault) (hn : n ≠ 0)
    (h : 0x1000 < s.i.toNat + n) : ¬ s.BlockFits n := by
  simp only [State.BlockFits, hp, reduceCtorEq, false_or]
  omega

theorem faultResult_memBounds (s : State) :
    FaultResult .memBounds (if s.i.toNat > 0xFFF then s.i.toNat else 0x1000) s
      (s.raiseFault .memBounds s.memBoundsInfo) := by
  rw [← memBoundsInfo_toNat]
  exact faultResult_raiseFault s _ _

/-- Settles O25: the last byte of the block is above 0xFFF. -/
theorem memoryBoundsFault : Obligations.MemoryBoundsFault := by
  refine fun s x y n hp => ⟨fun h => ?block, fun hn _ h => ?draw⟩
  case block =>
    have hfit : ¬ s.BlockFits (x.val + 1) := not_blockFits hp (Nat.succ_ne_zero _) (by omega)
    exact ⟨⟨_, exec_ldMemVx_of_not_blockFits hfit, faultResult_memBounds s⟩,
      ⟨_, exec_ldVxMem_of_not_blockFits hfit, faultResult_memBounds s⟩⟩
  case draw =>
    exact ⟨_, exec_drw_of_not_blockFits x y (not_blockFits hp (by omega) (by omega)), faultResult_memBounds s⟩

/-! ### Stores -/

/-- A block store at I, in its own bytes. -/
theorem readByte_cellAddr_writeBytes (f : Nat → Byte) (s : State) {n k : Nat} (hn : n ≤ memSize) (hk : k < n) :
    (State.writeBytes f (s.dataAddr 0) n s).readByte (s.cellAddr k) = f k :=
  (readByte_mod _ _).trans (readByte_writeBytes_same f (s.dataAddr 0) n s hn k hk)

/-- A block store at I, outside its bytes. -/
theorem readByte_writeBytes_outside (f : Nat → Byte) (s : State) {n a : Nat} (ha : a < memSize)
    (h : ∀ k, k < n → a ≠ s.cellAddr k) :
    (State.writeBytes f (s.dataAddr 0) n s).readByte a = s.readByte a := by
  apply readByte_writeBytes_other
  intro k hk
  rw [Nat.mod_eq_of_lt ha]
  exact h k hk

theorem changesOnly_writeBytes_advance (f : Nat → Byte) (ea n : Nat) (s : State) :
    ChangesOnly [.mem, .pc] s (State.writeBytes f ea n s).advance :=
  (changesOnly_writeBytes f ea n s).trans (changesOnly_setPc _ _)

theorem writeBytes_advance_pc (f : Nat → Byte) (ea n : Nat) (s : State) :
    (State.writeBytes f ea n s).advance.pc = s.pc + 2 := by
  simp

/-- Settles O21: the three digits are a block of three bytes. -/
theorem decimalStore : Obligations.DecimalStore := by
  refine ⟨rowDecodes (.ldBVx 0), fun s x => ⟨fun h => ⟨_, exec_ldBVx_of_blockFits x h, ?_, ?_, ?_,
    fun a ha houtside => readByte_writeBytes_outside _ s ha houtside, writeBytes_advance_pc _ _ 3 s,
    changesOnly_writeBytes_advance _ _ 3 s⟩, fun hp h => ?fault⟩⟩
  case fault =>
    exact ⟨_, exec_ldBVx_of_not_blockFits x (not_blockFits hp (by decide) (by omega)), faultResult_memBounds s⟩
  all_goals
    rw [State.advance_eq, State.setPc_readByte, readByte_cellAddr_writeBytes _ s (by decide) (by decide)]
  · exact (bcdDigit_toNat _).1
  · exact (bcdDigit_toNat _).2.1
  · exact (bcdDigit_toNat _).2.2

theorem regs_le_memSize (x : RegIdx) : x.val + 1 ≤ memSize := Nat.le_trans x.isLt (by decide)

/-- Settles O22: the block of x + 1 bytes holds the registers in their order. -/
theorem blockStore : Obligations.BlockStore := by
  refine fun s x h => ⟨_, exec_ldMemVx_of_blockFits h, fun k hk => ?stored, fun a ha houtside =>
    readByte_writeBytes_outside _ s ha fun k hk => houtside k (Nat.le_of_lt_succ hk), writeBytes_advance_pc _ _ _ s,
    changesOnly_writeBytes_advance _ _ _ s⟩
  case stored =>
    rw [State.advance_eq, State.setPc_readByte,
      readByte_cellAddr_writeBytes _ s (regs_le_memSize x) (Nat.lt_succ_of_le hk), regIdx_val]

/-! ### Loads -/

theorem dataByte_eq_readByte_cellAddr (s : State) (k : Nat) : s.dataByte k = s.readByte (s.cellAddr k) :=
  (readByte_mod s _).symm

/-- A block load, in the loaded registers. -/
theorem setRegs_reg_of_le (f : Nat → Byte) (s : State) {x k : RegIdx} (h : k ≤ x) :
    (State.setRegs f (x.val + 1) s).reg k = f k.val := by
  rw [setRegs_reg f _ x.isLt, if_pos (Nat.lt_succ_of_le h)]

/-- A block load, above the loaded registers. -/
theorem setRegs_reg_of_lt (f : Nat → Byte) (s : State) {x k : RegIdx} (h : x < k) :
    (State.setRegs f (x.val + 1) s).reg k = s.reg k := by
  rw [setRegs_reg f _ x.isLt, if_neg (Nat.not_lt.2 (Nat.succ_le_of_lt h))]

/-- Settles O23: each loaded register is the byte at its own offset. -/
theorem blockLoad : Obligations.BlockLoad := by
  refine fun s x h => ⟨_, exec_ldVxMem_of_blockFits h, fun k hk => ?loaded, fun k hk => ?kept, ?pc,
    (changesOnly_setRegs _ _ s).trans (changesOnly_setPc _ _)⟩
  case loaded =>
    exact (setRegs_reg_of_le _ s hk).trans (dataByte_eq_readByte_cellAddr s k.val)
  case kept => exact setRegs_reg_of_lt _ s hk
  case pc => simp

/-- Settles O24: the load reads the addresses of the store, in the memory that the store left. -/
theorem blockLoadUndoesStore : Obligations.BlockLoadUndoesStore := by
  intro s t u x hfit hexec hi hmem hparams
  have ht : t = (State.writeBytes (fun k => s.reg (regIdx k)) (s.dataAddr 0) (x.val + 1) s).advance :=
    (Host.Outcome.next.inj ((exec_ldMemVx_of_blockFits hfit).symm.trans hexec)).symm
  have hti : t.i = s.i := by simp [ht]
  have htp : t.params = s.params := by simp [ht]
  have hfitu : u.BlockFits (x.val + 1) := by
    simpa only [State.BlockFits, hi, hparams, hti, htp] using hfit
  refine ⟨_, exec_ldVxMem_of_blockFits hfitu, fun k hk => ?_⟩
  have haddr : u.dataAddr k.val = s.dataAddr k.val := by simp only [State.dataAddr, hi, hti]
  have hbyte : u.readByte (s.dataAddr k.val) = t.readByte (s.dataAddr k.val) := by
    simp only [State.readByte, hmem, hparams]
  calc (State.setRegs u.dataByte (x.val + 1) u).advance.reg k
      = u.readByte (u.dataAddr k.val) := setRegs_reg_of_le _ u hk
    _ = t.readByte (s.dataAddr k.val) := by rw [haddr, hbyte]
    _ = s.reg k := readByte_dataAddr_after_ldMemVx hfit hexec hk

/-! ### The draw -/

/-- The canvas of a draw after its rows. -/
def State.drawn (s : State) (x y : RegIdx) (n : Nat) : Canvas :=
  drawRows s.dataByte (s.reg x) (s.reg y) n ⟨s.fb, false⟩

theorem exec_drw_of_blockFits (x y : RegIdx) {n : Nat} {s : State} (h : s.BlockFits n) :
    exec (.drw x y n) s = .next (((s.setFb (s.drawn x y n).fb).setReg regF (flagByte (s.drawn x y n).hit)).setOut
      { s.out with frameReady := true }).advance :=
  if_pos ((blockInBounds_iff s _).2 h)

/-- The sprite bit of the loops is that of the spec's formula. -/
theorem spriteMask_eq_spriteAt (s : State) (x y : RegIdx) (n : Nat) (c : Fin 64) (r : Fin 32) :
    spriteMask s.dataByte (s.reg x) (s.reg y) n c r = s.spriteAt x y n c r := by
  show (decide (colOf (s.reg x) c < 8) && decide (rowOf (s.reg y) r < n)
      && spriteBit (s.dataByte (rowOf (s.reg y) r)) (colOf (s.reg x) c))
    = (decide (colOf (s.reg x) c < 8) && decide (rowOf (s.reg y) r < n)
      && (s.dataByte (rowOf (s.reg y) r)).getLsbD (7 - colOf (s.reg x) c))
  by_cases hcol : colOf (s.reg x) c < 8
  · rw [spriteBit_eq _ _ hcol]
  · simp [hcol]

theorem drawn_pixel (s : State) (x y : RegIdx) {n : Nat} (hn : n ≤ 15) (c : Fin 64) (r : Fin 32) :
    (s.drawn x y n).pixel c r = xor (s.pixel c r) (s.spriteAt x y n c r) := by
  rw [State.drawn, drawRows_pixel _ _ _ n (by omega), spriteMask_eq_spriteAt]
  rfl

theorem drawn_hit_iff (s : State) (x y : RegIdx) {n : Nat} (hn : n ≤ 15) :
    (s.drawn x y n).hit = true ↔ ∃ c r, s.pixel c r = true ∧ s.spriteAt x y n c r = true := by
  rw [State.drawn, drawRows_hit _ _ _ n (by omega)]
  simp only [spriteMask_eq_spriteAt, Bool.false_eq_true, false_or]
  rfl

theorem changesOnly_drawn (s : State) (g : Vector (Vector Bool 32) 64) (b : Byte) (o : Signals) :
    ChangesOnly [.fb, .regs, .strobes, .pc] s (((s.setFb g).setReg regF b).setOut o).advance :=
  (((changesOnly_setFb s g).trans (changesOnly_setReg _ _ b)).trans (changesOnly_setOut _ o)).trans
    (changesOnly_setPc _ _)

/-- Settles O27: the loops are one formula per pixel, and the flag is the existence of a lit pixel under a set bit. -/
theorem drawIsXorOfWrappedSprite : Obligations.DrawIsXorOfWrappedSprite := by
  intro s x y n hn h
  refine ⟨_, exec_drw_of_blockFits x y h, drawn_pixel s x y hn, ?flag, fun z hz => ?others, rfl, rfl,
    changesOnly_drawn s _ _ _⟩
  case flag =>
    rw [State.advance_eq, State.setPc_reg, State.setOut_reg, State.setReg_reg_same]
    exact flagByte_eq_ite (drawn_hit_iff s x y hn)
  case others => simp [State.setReg_reg, hz]

/-- Settles O28: under the formula of the draw a pixel goes from on to off exactly where it meets a set bit. -/
theorem collisionIsOnToOff : Obligations.CollisionIsOnToOff := by
  intro s x y n hn h
  obtain ⟨t, hexec, hpixel, hflag, -⟩ := drawIsXorOfWrappedSprite s x y n hn h
  have hhit : (∃ c r, s.pixel c r = true ∧ t.pixel c r = false) ↔
      ∃ c r, s.pixel c r = true ∧ s.spriteAt x y n c r = true := by
    refine exists_congr fun c => exists_congr fun r => and_congr_right fun hon => ?_
    simp [hpixel, hon]
  have hmiss : (∀ c r, s.pixel c r = true → t.pixel c r = true) ↔
      ¬ ∃ c r, s.pixel c r = true ∧ s.spriteAt x y n c r = true := by
    rw [← hhit]
    simp
  refine ⟨t, hexec, ?one, ?zero, fun c r hclear => ?untouched⟩
  case one => rw [hhit, hflag]; split <;> simp [*]
  case zero => rw [hmiss, hflag]; split <;> simp [*]
  case untouched => simp [hpixel, hclear]

theorem spriteAt_zero (s : State) (x y : RegIdx) (c : Fin 64) (r : Fin 32) : s.spriteAt x y 0 c r = false := by
  simp [State.spriteAt]

/-- Settles O29: a draw of no rows has no set bit. -/
theorem drawOfNoRows : Obligations.DrawOfNoRows := by
  intro s x y
  obtain ⟨t, hexec, hpixel, hflag, hothers, hout, hpc, hframe⟩ :=
    drawIsXorOfWrappedSprite s x y 0 (Nat.zero_le _) (.inr (.inl rfl))
  refine ⟨t, hexec, ?_, hothers, hout, hpc, hframe.drop fun c r => ?_⟩
  · simpa [spriteAt_zero] using hflag
  · simp [hpixel, spriteAt_zero]

/-- The sprite depends on its coordinates, I and memory only. -/
theorem spriteAt_congr {s t : State} {x y : RegIdx} (n : Nat) (hx : t.reg x = s.reg x) (hy : t.reg y = s.reg y)
    (hi : t.i = s.i) (hmem : ∀ a, t.readByte a = s.readByte a) (c : Fin 64) (r : Fin 32) :
    t.spriteAt x y n c r = s.spriteAt x y n c r := by
  simp only [State.spriteAt, hx, hy, hi, hmem]

/-- Settles O30: the second draw has the sprite of the first, and a pixel XORed twice with one bit is as before. -/
theorem drawTwiceRestores : Obligations.DrawTwiceRestores := by
  intro s t x y n hn hfit hx hy hexec
  obtain ⟨t', hexec', hpixel, -, hothers, -, -, hframe⟩ := drawIsXorOfWrappedSprite s x y n hn hfit
  obtain rfl : t' = t := Host.Outcome.next.inj (hexec'.symm.trans hexec)
  have hi : t'.i = s.i := hframe .index (by decide)
  have hparams : t'.params = s.params := hframe .params (by decide)
  have hsprite := spriteAt_congr n (hothers x hx) (hothers y hy) hi (hframe .mem (by decide))
  have hfit' : t'.BlockFits n := by simpa only [State.BlockFits, hi, hparams] using hfit
  obtain ⟨u, hexecu, hpixelu, hflagu, -, -, -, hframeu⟩ := drawIsXorOfWrappedSprite t' x y n hn hfit'
  have hrestored (c r) : u.pixel c r = s.pixel c r := by simp [hpixelu, hpixel, hsprite]
  refine ⟨u, hexecu, hrestored, fun hempty => ?flag, ?frame⟩
  case flag =>
    rw [hflagu]
    simp only [hpixel, hsprite, hempty, Bool.false_xor, and_self]
    split <;> simp [*]
  case frame =>
    have hboth : ChangesOnly [.fb, .regs, .strobes, .pc] s u := (hframe.trans hframeu).mono (by decide)
    exact hboth.drop hrestored

end Sys2Proof.Machine
end

section
/-! PROOF. What an instruction can do, once: it ends in a fault of its own kind, or it changes only the parts it may
write (spec/10_state.md; spec/60_exceptions.md R201, R205).  The frames of all instructions, the precision of faults and
what a program cannot see follow from this. -/

namespace Sys2Proof.Machine

/-! ### The two ways an instruction ends -/

/-- The parts an instruction may change when it raises no fault (spec/10_state.md sections 1 to 8). -/
def writtenParts : Instr → List Part
  | .cls => [.fb, .strobes, .pc]
  | .ret => [.sp, .pc]
  | .call _ => [.sp, .stack, .pc]
  | .jp _ | .jpV0 _ => [.pc]
  | .seVxKk _ _ | .sneVxKk _ _ | .seVxVy _ _ | .sneVxVy _ _ | .skp _ | .sknp _ => [.pc]
  | .ldVxKk _ _ | .addVxKk _ _ | .ldVxVy _ _ | .or _ _ | .and _ _ | .xor _ _ | .ldVxDt _ | .ldVxMem _ => [.regs, .pc]
  | .addVxVy _ _ | .sub _ _ | .shr _ _ | .subn _ _ | .shl _ _ => [.regs, .pc]
  | .rnd _ _ => [.regs, .pc, .rnd]
  | .drw _ _ _ => [.fb, .regs, .strobes, .pc]
  | .ldI _ | .addIVx _ | .ldFVx _ => [.index, .pc]
  | .ldDtVx _ => [.dt, .pc]
  | .ldStVx _ => [.st, .pc]
  | .ldVxK _ => [.mode, .wx]
  | .ldBVx _ | .ldMemVx _ => [.mem, .pc]

/-- The fault that an instruction may raise in a state, and its information (60_exceptions.md R200, R201). -/
def RaisedBy (i : Instr) (s : State) (code : FaultCode) (info : BitVec 17) : Prop :=
  (code = .stackOverflow ∧ ∃ nnn, i = .call nnn) ∨
  (code = .stackUnderflow ∧ i = .ret) ∨
  (code = .memBounds ∧ s.params.memOob = .fault ∧ 0x1000 ≤ info.toNat ∧
    ((∃ x, i = .ldBVx x ∨ i = .ldMemVx x ∨ i = .ldVxMem x) ∨ ∃ x y n, i = .drw x y n)) ∨
  (code = .keyRange ∧ s.params.keyIndex = .fault ∧ 0xF < info.toNat ∧ ∃ x, i = .skp x ∨ i = .sknp x)

/-- The instruction raises its fault in s, and t is the halted state. -/
def Faults (i : Instr) (s t : State) : Prop :=
  ∃ code info, RaisedBy i s code info ∧ t = s.raiseFault code info

theorem memOob_of_not_blockFits {s : State} {n : Nat} (h : ¬ s.BlockFits n) : s.params.memOob = .fault := by
  cases hp : s.params.memOob with
  | fault => rfl
  | wrap => exact absurd (.inl hp) h

theorem memBoundsInfo_ge (s : State) : 0x1000 ≤ s.memBoundsInfo.toNat := by
  rw [memBoundsInfo_toNat]
  split <;> omega

theorem faults_memBounds {i : Instr} {s : State} {n : Nat} (h : ¬ s.BlockFits n)
    (hi : (∃ x, i = .ldBVx x ∨ i = .ldMemVx x ∨ i = .ldVxMem x) ∨ ∃ x y n, i = .drw x y n) :
    Faults i s (s.raiseFault .memBounds s.memBoundsInfo) :=
  ⟨_, _, .inr (.inr (.inl ⟨rfl, memOob_of_not_blockFits h, memBoundsInfo_ge s, hi⟩)), rfl⟩

theorem keyIndex_eq_none {s : State} {vx : Byte} (h : s.keyIndex vx = none) :
    0xF < vx.toNat ∧ s.params.keyIndex = .fault := by
  have hnot : ¬ (vx.toNat ≤ 0xF ∨ s.params.keyIndex = .mask) := fun hsome =>
    nomatch (keyIndex_some s vx hsome).symm.trans h
  obtain ⟨hvx, hmask⟩ := not_or.1 hnot
  refine ⟨Nat.lt_of_not_le hvx, ?_⟩
  cases hp : s.params.keyIndex with
  | mask => exact absurd hp hmask
  | fault => rfl

theorem faults_keyRange {i : Instr} {s : State} {x : RegIdx} (h : s.keyIndex (s.reg x) = none)
    (hi : i = .skp x ∨ i = .sknp x) : Faults i s (s.raiseFault .keyRange ((s.reg x).setWidth 17)) := by
  obtain ⟨hvx, hp⟩ := keyIndex_eq_none h
  refine ⟨_, _, .inr (.inr (.inr ⟨rfl, hp, ?_, x, hi⟩)), rfl⟩
  rwa [BitVec.toNat_setWidth_of_le (by decide)]

/-- The instruction has raised no fault: it has changed only what it may write, and memory as data is as before or is
written byte by byte. -/
def Finishes (i : Instr) (s t : State) : Prop :=
  ChangesOnly (writtenParts i) s t ∧ (t.mem = s.mem ∨ ∃ f ea n, t.mem = (State.writeBytes f ea n s).mem)

/-- Every instruction answers a next state, in which it has finished or raised its fault. -/
theorem exec_spec (i : Instr) (s : State) : Completes i s (fun t => Finishes i s t ∨ Faults i s t) := by
  have hreg (x : RegIdx) (b : Byte) : ChangesOnly [.regs, .pc] s (s.setReg x b).advance :=
    (changesOnly_setReg s x b).trans (changesOnly_setPc _ _)
  have hindex (w : Word) : ChangesOnly [.index, .pc] s (s.setI w).advance :=
    (changesOnly_setI s w).trans (changesOnly_setPc _ _)
  cases i with
  | cls => exact ⟨_, exec_cls s, .inl ⟨changesOnly_cls s _ _, .inl rfl⟩⟩
  | ret =>
    by_cases hsp : s.sp = 0
    · exact ⟨_, (exec_ret s).trans (if_pos hsp), .inr ⟨_, _, .inr (.inl ⟨rfl, rfl⟩), rfl⟩⟩
    · exact ⟨_, (exec_ret s).trans (if_neg hsp), .inl ⟨changesOnly_ret s _ _, .inl rfl⟩⟩
  | call nnn =>
    by_cases hsp : s.sp = 15
    · exact ⟨_, (exec_call nnn s).trans (if_pos hsp), .inr ⟨_, _, .inl ⟨rfl, nnn, rfl⟩, rfl⟩⟩
    · exact ⟨_, (exec_call nnn s).trans (if_neg hsp), .inl ⟨changesOnly_call s _ _, .inl rfl⟩⟩
  | jp | jpV0 | seVxKk | sneVxKk | seVxVy | sneVxVy => exact ⟨_, rfl, .inl ⟨changesOnly_setPc s _, .inl rfl⟩⟩
  | ldVxKk | addVxKk | ldVxVy | or | and | xor | ldVxDt => exact ⟨_, rfl, .inl ⟨hreg _ _, .inl rfl⟩⟩
  | addVxVy | sub | shr | subn | shl => exact ⟨_, rfl, .inl ⟨changesOnly_setFlagged_advance s _ _ _, .inl rfl⟩⟩
  | ldI | addIVx | ldFVx => exact ⟨_, rfl, .inl ⟨hindex _, .inl rfl⟩⟩
  | rnd x kk => exact ⟨_, exec_rnd x kk s, .inl ⟨changesOnly_rnd x _ s, .inl rfl⟩⟩
  | drw x y n =>
    by_cases hfit : s.BlockFits n
    · exact ⟨_, exec_drw_of_blockFits x y hfit, .inl ⟨changesOnly_drawn s _ _ _, .inl rfl⟩⟩
    · exact ⟨_, exec_drw_of_not_blockFits x y hfit, .inr (faults_memBounds hfit (.inr ⟨x, y, n, rfl⟩))⟩
  | skp x =>
    cases hkey : s.keyIndex (s.reg x) with
    | none => exact ⟨_, exec_skp_of_none hkey, .inr (faults_keyRange hkey (.inl rfl))⟩
    | some k => exact ⟨_, exec_skp_of_some hkey, .inl ⟨changesOnly_setPc s _, .inl rfl⟩⟩
  | sknp x =>
    cases hkey : s.keyIndex (s.reg x) with
    | none => exact ⟨_, exec_sknp_of_none hkey, .inr (faults_keyRange hkey (.inr rfl))⟩
    | some k => exact ⟨_, exec_sknp_of_some hkey, .inl ⟨changesOnly_setPc s _, .inl rfl⟩⟩
  | ldVxK x => exact ⟨_, exec_ldVxK x s, .inl ⟨changesOnly_suspend s x, .inl rfl⟩⟩
  | ldDtVx x => exact ⟨_, exec_ldDtVx x s, .inl ⟨(changesOnly_setDt s _).trans (changesOnly_setPc _ _), .inl rfl⟩⟩
  | ldStVx x => exact ⟨_, exec_ldStVx x s, .inl ⟨(changesOnly_setSt s _).trans (changesOnly_setPc _ _), .inl rfl⟩⟩
  | ldBVx x =>
    by_cases hfit : s.BlockFits 3
    · exact ⟨_, exec_ldBVx_of_blockFits x hfit, .inl ⟨changesOnly_writeBytes_advance _ _ 3 s, .inr ⟨_, _, _, rfl⟩⟩⟩
    · exact ⟨_, exec_ldBVx_of_not_blockFits x hfit, .inr (faults_memBounds hfit (.inl ⟨x, .inl rfl⟩))⟩
  | ldMemVx x =>
    by_cases hfit : s.BlockFits (x.val + 1)
    · exact ⟨_, exec_ldMemVx_of_blockFits hfit, .inl ⟨changesOnly_writeBytes_advance _ _ _ s, .inr ⟨_, _, _, rfl⟩⟩⟩
    · exact ⟨_, exec_ldMemVx_of_not_blockFits hfit, .inr (faults_memBounds hfit (.inl ⟨x, .inr (.inl rfl)⟩))⟩
  | ldVxMem x =>
    by_cases hfit : s.BlockFits (x.val + 1)
    · exact ⟨_, exec_ldVxMem_of_blockFits hfit, .inl ⟨(changesOnly_setRegs _ _ s).trans (changesOnly_setPc _ _),
        .inl (State.setRegs_mem _ _ s)⟩⟩
    · exact ⟨_, exec_ldVxMem_of_not_blockFits hfit, .inr (faults_memBounds hfit (.inl ⟨x, .inr (.inr rfl)⟩))⟩

theorem exec_cases {i : Instr} {s t : State} (h : exec i s = .next t) : Finishes i s t ∨ Faults i s t := by
  obtain ⟨u, hexec, hu⟩ := exec_spec i s
  rwa [Host.Outcome.next.inj (h.symm.trans hexec)]

/-! ### Which parts an instruction names -/

theorem mode_mem_writtenParts_iff (i : Instr) : Part.mode ∈ writtenParts i ↔ ∃ x, i = .ldVxK x := by
  cases i <;> simp [writtenParts]

theorem mem_mem_writtenParts_iff (i : Instr) : Part.mem ∈ writtenParts i ↔
    ∃ x, i = .ldBVx x ∨ i = .ldMemVx x := by
  cases i <;> simp [writtenParts]

theorem fb_mem_writtenParts_iff (i : Instr) : Part.fb ∈ writtenParts i ↔
    i = .cls ∨ ∃ x y n, i = .drw x y n := by
  cases i <;> simp [writtenParts]

theorem stack_mem_writtenParts_iff (i : Instr) : Part.stack ∈ writtenParts i ↔ ∃ nnn, i = .call nnn := by
  cases i <;> simp [writtenParts]

theorem sp_mem_writtenParts_iff (i : Instr) : Part.sp ∈ writtenParts i ↔ i = .ret ∨ ∃ nnn, i = .call nnn := by
  cases i <;> simp [writtenParts]

theorem index_mem_writtenParts_iff (i : Instr) :
    Part.index ∈ writtenParts i ↔ (∃ nnn, i = .ldI nnn) ∨ ∃ x, i = .addIVx x ∨ i = .ldFVx x := by
  cases i <;> simp [writtenParts]

theorem dt_mem_writtenParts_iff (i : Instr) : Part.dt ∈ writtenParts i ↔ ∃ x, i = .ldDtVx x := by
  cases i <;> simp [writtenParts]

theorem st_mem_writtenParts_iff (i : Instr) : Part.st ∈ writtenParts i ↔ ∃ x, i = .ldStVx x := by
  cases i <;> simp [writtenParts]

theorem rnd_mem_writtenParts_iff (i : Instr) : Part.rnd ∈ writtenParts i ↔ ∃ x kk, i = .rnd x kk := by
  cases i <;> simp [writtenParts]

/-- No instruction's completion writes the fault register, the counters, the parameters or the environment's own
parts. -/
theorem writtenParts_subset (i : Instr) : writtenParts i ⊆
    [.regs, .mem, .fb, .stack, .sp, .index, .dt, .st, .rnd, .mode, .wx, .pc, .strobes] := by
  cases i <;> simp [writtenParts]

/-- A part that neither the completion nor a fault writes is kept. -/
theorem exec_keeps {i : Instr} {s t : State} (h : exec i s = .next t) (p : Part) (hp : p ∉ writtenParts i)
    (hfault : p ∉ [Part.mode, .fault]) : p.same s t := by
  rcases exec_cases h with ⟨hframe, -⟩ | ⟨code, info, -, rfl⟩
  · exact hframe p hp
  · exact changesOnly_raiseFault s code info p hfault

/-- A part that has changed is one that the instruction writes. -/
theorem mem_writtenParts_of_changed {i : Instr} {s t : State} (h : exec i s = .next t) (p : Part)
    (hfault : p ∉ [Part.mode, .fault]) (hp : ¬ p.same s t) : p ∈ writtenParts i := by
  exact Decidable.byContradiction fun hnot => hp (exec_keeps h p hnot hfault)

theorem exec_changesOnly {i : Instr} {s t : State} (h : exec i s = .next t) : ChangesOnly
    [.regs, .mem, .fb, .stack, .sp, .index, .dt, .st, .rnd, .mode, .wx, .fault, .pc, .strobes] s t := by
  rcases exec_cases h with ⟨hframe, -⟩ | ⟨code, info, -, rfl⟩
  · exact (hframe.mono (writtenParts_subset i)).mono (by decide)
  · exact (changesOnly_raiseFault s code info).mono (by decide)

/-- The mode after an instruction. -/
theorem exec_mode {i : Instr} {s t : State} (h : exec i s = .next t) :
    t.mode = s.mode ∨ (∃ x, i = .ldVxK x ∧ t = s.suspend x) ∨ Faults i s t := by
  rcases exec_cases h with ⟨hframe, -⟩ | hfaults
  · by_cases hmode : Part.mode ∈ writtenParts i
    · obtain ⟨x, rfl⟩ := (mode_mem_writtenParts_iff i).1 hmode
      exact .inr (.inl ⟨x, rfl, (Host.Outcome.next.inj h).symm⟩)
    · exact .inl (hframe .mode hmode)
  · exact .inr (.inr hfaults)

/-! ### The registers -/

/-- A register that the instruction does not name is kept. -/
theorem exec_reg {i : Instr} {s t : State} (h : exec i s = .next t) {z : RegIdx} (hz : z ∉ instrWrites i) :
    t.reg z = s.reg z := by
  rcases exec_cases h with ⟨hframe, -⟩ | ⟨code, info, -, rfl⟩
  case inr => rfl
  by_cases hregs : Part.regs ∈ writtenParts i
  case neg => exact hframe .regs hregs z
  cases i with
  | ldVxKk | addVxKk | ldVxVy | or | and | xor | ldVxDt | rnd =>
    obtain rfl := Host.Outcome.next.inj h
    exact State.setReg_reg_other _ _ (by simpa [instrWrites] using hz)
  | addVxVy | sub | shr | subn | shl =>
    obtain rfl := Host.Outcome.next.inj h
    obtain ⟨hF, hx⟩ : z ≠ regF ∧ z ≠ _ := by simpa [instrWrites] using hz
    exact (State.setReg_reg_other _ _ hx).trans (State.setReg_reg_other _ _ hF)
  | drw x y n =>
    by_cases hfit : s.BlockFits n
    · obtain rfl := Host.Outcome.next.inj ((exec_drw_of_blockFits x y hfit).symm.trans h)
      exact State.setReg_reg_other _ _ (by simpa [instrWrites] using hz)
    · obtain rfl := Host.Outcome.next.inj ((exec_drw_of_not_blockFits x y hfit).symm.trans h)
      rfl
  | ldVxMem x =>
    by_cases hfit : s.BlockFits (x.val + 1)
    · obtain rfl := Host.Outcome.next.inj ((exec_ldVxMem_of_blockFits hfit).symm.trans h)
      exact setRegs_reg_of_lt _ s (by simpa [instrWrites] using hz)
    · obtain rfl := Host.Outcome.next.inj ((exec_ldVxMem_of_not_blockFits hfit).symm.trans h)
      rfl
  | _ => simp [writtenParts] at hregs

/-- Settles O56: a part that has changed is one of the instruction's own. -/
theorem instructionsWriteOnlyTheirState : Obligations.InstructionsWriteOnlyTheirState := by
  intro i s t h
  have changed (p : Part) (hfault : p ∉ [Part.mode, .fault]) (hp : ¬ p.same s t) : p ∈ writtenParts i :=
    mem_writtenParts_of_changed h p hfault hp
  refine ⟨fun z hz => exec_reg h hz, fun hp => (mem_mem_writtenParts_iff i).1 (changed .mem (by decide) hp),
    fun hp => (fb_mem_writtenParts_iff i).1 (changed .fb (by decide) hp),
    fun hp => (stack_mem_writtenParts_iff i).1 (changed .stack (by decide) hp),
    fun hp => (sp_mem_writtenParts_iff i).1 (changed .sp (by decide) hp),
    fun hp => (index_mem_writtenParts_iff i).1 (changed .index (by decide) hp),
    fun hp => (dt_mem_writtenParts_iff i).1 (changed .dt (by decide) hp),
    fun hp => (st_mem_writtenParts_iff i).1 (changed .st (by decide) hp),
    fun hp => (rnd_mem_writtenParts_iff i).1 (changed .rnd (by decide) hp), ?mode, exec_changesOnly h⟩
  case mode =>
    rcases exec_mode h with hsame | ⟨x, hi, -⟩ | ⟨code, info, -, rfl⟩
    · exact .inl hsame
    · exact .inr (.inr ⟨x, hi⟩)
    · exact .inr (.inl rfl)

/-- Settles O57: an instruction that ends HALTED has not kept its mode, so it has raised its fault. -/
theorem faultsArePrecise : Obligations.FaultsArePrecise := by
  intro i s t hmode h hhalted
  rcases exec_mode h with hsame | ⟨x, -, rfl⟩ | ⟨code, info, hraised, rfl⟩
  · exact absurd (hsame.symm.trans hhalted) hmode
  · cases hhalted
  · exact ⟨changesOnly_raiseFault s code info, hraised⟩

/-! ### What a program cannot see -/

/-- The counters and the framebuffer replaced, each if a value is given. -/
def State.setHidden (n d : Option Nat) (g : Option (Vector (Vector Bool 32) 64)) (s : State) : State :=
  { s with ipfCnt := n.getD s.ipfCnt, divCnt := d.getD s.divCnt, fb := g.getD s.fb }

theorem blockInBounds_setHidden_iff (n d g) (k : Nat) (s : State) :
    (s.setHidden n d g).blockInBounds k = true ↔ s.blockInBounds k = true :=
  (blockInBounds_iff (s.setHidden n d g) k).trans (blockInBounds_iff s k).symm

theorem writeBytes_setHidden (n d g) (f : Nat → Byte) (ea k : Nat) (s : State) :
    State.writeBytes f ea k (s.setHidden n d g) = (State.writeBytes f ea k s).setHidden n d g := by
  induction k with
  | zero => rfl
  | succ k ih => rw [State.writeBytes, State.writeBytes, ih]; rfl

theorem setRegs_setHidden (n d g) (f : Nat → Byte) (k : Nat) (s : State) :
    State.setRegs f k (s.setHidden n d g) = (State.setRegs f k s).setHidden n d g := by
  induction k with
  | zero => rfl
  | succ k ih => rw [State.setRegs, State.setRegs, ih]; rfl

/-- No instruction reads the counters, and none but CLS and DRW reads or writes the framebuffer: every value and every
guard is the same for other counters and pixels. -/
theorem exec_setHidden (n d : Option Nat) (g : Option (Vector (Vector Bool 32) 64)) (i : Instr) (s : State)
    (hg : g = none ∨ (i ≠ .cls ∧ ∀ x y h, i ≠ .drw x y h)) :
    exec i (s.setHidden n d g) = mapNext (State.setHidden n d g) (exec i s) := by
  cases i with
  | cls =>
    obtain rfl : g = none := hg.resolve_right fun h => h.1 rfl
    rfl
  | drw x y h =>
    obtain rfl : g = none := hg.resolve_right fun hne => hne.2 x y h rfl
    exact ite_next_eq_mapNext (blockInBounds_setHidden_iff n d none h s) rfl rfl
  | ret | call nnn => exact ite_next_eq_mapNext Iff.rfl rfl rfl
  | skp x =>
    have hkey : (s.setHidden n d g).keyIndex ((s.setHidden n d g).reg x) = s.keyIndex (s.reg x) := rfl
    cases h : s.keyIndex (s.reg x) with
    | none => rw [exec_skp_of_none h, exec_skp_of_none (hkey.trans h)]; rfl
    | some k => rw [exec_skp_of_some h, exec_skp_of_some (hkey.trans h)]; rfl
  | sknp x =>
    have hkey : (s.setHidden n d g).keyIndex ((s.setHidden n d g).reg x) = s.keyIndex (s.reg x) := rfl
    cases h : s.keyIndex (s.reg x) with
    | none => rw [exec_sknp_of_none h, exec_sknp_of_none (hkey.trans h)]; rfl
    | some k => rw [exec_sknp_of_some h, exec_sknp_of_some (hkey.trans h)]; rfl
  | ldBVx x =>
    exact ite_next_eq_mapNext (blockInBounds_setHidden_iff n d g 3 s)
      (congrArg State.advance (writeBytes_setHidden n d g _ _ 3 s)) rfl
  | ldMemVx x =>
    exact ite_next_eq_mapNext (blockInBounds_setHidden_iff n d g (x.val + 1) s)
      (congrArg State.advance (writeBytes_setHidden n d g _ _ (x.val + 1) s)) rfl
  | ldVxMem x =>
    exact ite_next_eq_mapNext (blockInBounds_setHidden_iff n d g (x.val + 1) s)
      (congrArg State.advance (setRegs_setHidden n d g _ (x.val + 1) s)) rfl
  | _ => rfl

/-- CLS overwrites whatever the framebuffer held. -/
theorem exec_cls_setFb (g : Vector (Vector Bool 32) 64) (s : State) : exec .cls (s.setFb g) = exec .cls s := rfl

/-- Settles O58: a counter or the framebuffer set is the hidden state set, ST is `exec_setSt`. -/
theorem hiddenStateDoesNotInfluence : Obligations.HiddenStateDoesNotInfluence := fun i s =>
  ⟨fun n => exec_setHidden (some n) none none i s (.inl rfl),
    fun n => exec_setHidden none (some n) none i s (.inl rfl),
    fun b hi => exec_setSt b i s hi, fun b x => exec_ldStVx_setSt x b s,
    fun g hcls hdrw => exec_setHidden none none (some g) i s (.inr ⟨hcls, hdrw⟩), fun g => exec_cls_setFb g s⟩

end Sys2Proof.Machine
end

section
/-! PROOF. One step of the machine (spec/40_pipeline.md R100 to R110): which entry of the agenda it takes, the three
ways an enabled instruction step ends, the tick, the key edge, and the word that is placed for the next step. -/

namespace Sys2Proof.Machine

/-! ### Which step comes next -/

theorem changesOnly_beginStep (s : State) : ChangesOnly [.agenda, .strobes] s s.beginStep :=
  ((changesOnly_setOut s Signals.quiet).trans (changesOnly_setAgenda _ s.env.agenda.tail)).mono (by decide)

theorem beginStep_agenda_of_cons {s : State} {e : Event} {rest : List Event} (h : s.env.agenda = e :: rest) :
    s.beginStep.env.agenda = rest := by
  simp [h]

theorem step_of_cons {s : State} {e : Event} {rest : List Event} (h : s.env.agenda = e :: rest) :
    step s = takeEvent e s.beginStep := by
  simp only [step, nextStep, h]

theorem canRun_eq_false {s : State} (h : ¬ s.Enabled) : s.canRun = false :=
  Bool.eq_false_iff.2 (mt (canRun_iff s).1 h)

theorem step_of_enabled {s : State} (henabled : s.Enabled) (hnext : s.InstrNext) :
    step s = instructionStep s.beginStep := by
  have hrun : s.canRun = true := (canRun_iff s).2 henabled
  rcases hnext with hnil | ⟨rest, hcons⟩
  · simp only [step, nextStep, hnil, hrun, if_true]
  · rw [step_of_cons hcons]
    exact if_pos hrun

theorem step_of_instr_not_enabled {s : State} {rest : List Event} (h : ¬ s.Enabled)
    (hagenda : s.env.agenda = .instr :: rest) : step s = .next s.beginStep := by
  rw [step_of_cons hagenda]
  exact if_neg (Bool.eq_false_iff.1 (canRun_eq_false h))

theorem step_of_nil_not_enabled {s : State} (h : ¬ s.Enabled) (hagenda : s.env.agenda = []) :
    step s = .next s.beginStep.passTime := by
  simp only [step, nextStep, hagenda, canRun_eq_false h, Bool.false_eq_true, if_false]

/-! ### The instruction step -/

theorem instructionStep_of_ok {s : State} {i : Instr} (hfit : s.FetchFits)
    (hdecode : decode s.params.decodeLenient s.fetchWord = .ok i) : instructionStep s = exec i s.countStep := by
  have hdecode' : decode s.countStep.params.decodeLenient s.countStep.fetchWord = .ok i := hdecode
  simp only [instructionStep, (fetchInBounds_iff s.countStep).2 hfit, if_true, hdecode']

theorem instructionStep_of_error {s : State} {e : DecodeError} (hfit : s.FetchFits)
    (hdecode : decode s.params.decodeLenient s.fetchWord = .error e) :
    instructionStep s = .next (s.countStep.reportUnknown s.fetchWord) := by
  have hdecode' : decode s.countStep.params.decodeLenient s.countStep.fetchWord = .error e := hdecode
  simp only [instructionStep, (fetchInBounds_iff s.countStep).2 hfit, if_true, hdecode']
  rfl

theorem instructionStep_of_not_fits {s : State} (hfit : ¬ s.FetchFits) :
    instructionStep s = .next (s.countStep.raiseFault .fetchBounds (s.pc.setWidth 17)) :=
  if_neg (mt (fetchInBounds_iff s.countStep).1 hfit)

/-- The frame of everything that comes before exec in a step: the strobes, the agenda's entry, the count. -/
theorem changesOnly_beginStep_countStep (s : State) :
    ChangesOnly [.ipfCnt, .agenda, .strobes] s s.beginStep.countStep :=
  ((changesOnly_beginStep s).trans (changesOnly_setIpfCnt _ _)).mono (by decide)

theorem step_of_decode {s : State} {i : Instr} (henabled : s.Enabled) (hnext : s.InstrNext) (hfit : s.FetchFits)
    (hdecode : decode s.params.decodeLenient s.fetchWord = .ok i) : step s = exec i s.beginStep.countStep := by
  rw [step_of_enabled henabled hnext]
  exact instructionStep_of_ok hfit hdecode

/-- Settles O35: the state of the statement is that of the beginning step, counted. -/
theorem stepRunsDecodedInstruction : Obligations.StepRunsDecodedInstruction :=
  fun _ _ henabled hnext hfit hdecode => step_of_decode henabled hnext hfit hdecode

theorem reportUnknown_pc (w : Word) (s : State) :
    (s.reportUnknown w).pc = if s.params.unknownPcAdvance then s.pc + 2 else s.pc := by
  cases h : s.params.unknownPcAdvance <;> simp [State.reportUnknown, h]

theorem reportUnknown_out (w : Word) (s : State) :
    (s.reportUnknown w).out = { s.out with unk := some (w, s.pc) } := by
  cases h : s.params.unknownPcAdvance <;> simp [State.reportUnknown, h]

theorem changesOnly_reportUnknown (w : Word) (s : State) : ChangesOnly [.strobes, .pc] s (s.reportUnknown w) := by
  have htold := changesOnly_setOut s { s.out with unk := some (w, s.pc) }
  unfold State.reportUnknown
  split
  · exact htold.trans (changesOnly_setPc _ _)
  · exact htold.mono (by decide)

/-- Settles O37: the report comes after the count, and reads the pc and the word of before. -/
theorem unknownOpcodeIsReported : Obligations.UnknownOpcodeIsReported := by
  intro s henabled hnext hfit hdecode
  have hreport := changesOnly_reportUnknown s.fetchWord s.beginStep.countStep
  refine ⟨s.beginStep.countStep.reportUnknown s.fetchWord, ?_, reportUnknown_out _ _, reportUnknown_pc _ _,
    hreport .ipfCnt (by decide), hreport .agenda (by decide),
    ((changesOnly_beginStep_countStep s).trans hreport).mono (by decide)⟩
  rw [step_of_enabled henabled hnext]
  exact instructionStep_of_error hfit hdecode

/-- Settles O38: the fetch fault is raised in the counted state. -/
theorem fetchBoundsFault : Obligations.FetchBoundsFault := by
  intro s henabled hnext hp hpc
  have hfit : ¬ s.FetchFits := by
    rintro (hwrap | hlow)
    · cases hp.symm.trans hwrap
    · omega
  refine ⟨s.beginStep.countStep.raiseFault .fetchBounds (s.pc.setWidth 17), ?_, rfl, rfl,
    BitVec.toNat_setWidth_of_le (by decide), rfl,
    ((changesOnly_beginStep_countStep s).trans (changesOnly_raiseFault _ _ _)).mono (by decide)⟩
  rw [step_of_enabled henabled hnext]
  exact instructionStep_of_not_fits hfit

/-! ### Ticks and clock cycles -/

theorem changesOnly_tickStep (s : State) : ChangesOnly [.dt, .st, .ipfCnt] s s.tickStep :=
  ((changesOnly_setDt s _).trans (changesOnly_setSt _ _)).trans (changesOnly_setIpfCnt _ _)

theorem changesOnly_clockStep (d : Nat) (s : State) : ChangesOnly [.dt, .st, .ipfCnt, .divCnt] s (s.clockStep d) := by
  unfold State.clockStep
  split
  · exact (changesOnly_tickStep s).trans (changesOnly_setDivCnt _ _)
  · exact (changesOnly_setDivCnt s _).mono (by decide)

theorem changesOnly_passTime (s : State) : ChangesOnly [.dt, .st, .ipfCnt, .divCnt] s s.passTime := by
  unfold State.passTime
  split
  · exact (changesOnly_tickStep s).mono (by decide)
  · exact changesOnly_clockStep _ s

theorem step_tick {s : State} {rest : List Event} (h : s.env.agenda = .tick :: rest) (hd : s.params.divider = none) :
    step s = .next s.beginStep.tickStep := by
  have hd' : s.beginStep.params.divider = none := hd
  rw [step_of_cons h]
  simp only [takeEvent, State.tickStrobe, hd']

theorem step_clock {s : State} {rest : List Event} {d : Nat} (h : s.env.agenda = .clock :: rest)
    (hd : s.params.divider = some d) : step s = .next (s.beginStep.clockStep d) := by
  have hd' : s.beginStep.params.divider = some d := hd
  rw [step_of_cons h]
  simp only [takeEvent, State.clockCycle, hd']

/-- Settles O42: a strobe is a tick of the begun step. -/
theorem tickStep : Obligations.TickStep := by
  intro s rest h hd
  refine ⟨_, step_tick h hd, countDown_toNat _, countDown_toNat _, rfl, beginStep_agenda_of_cons h, ?tone,
    ((changesOnly_beginStep s).trans (changesOnly_tickStep _)).mono (by decide)⟩
  case tone =>
    have hst : s.beginStep.tickStep.st.toNat = s.st.toNat - 1 := countDown_toNat _
    rw [tone_iff, hst]
    omega

/-- Settles O39: an offered step is dropped, and an empty agenda lets time pass. -/
theorem noInstructionUnlessEnabled : Obligations.NoInstructionUnlessEnabled := by
  refine fun s h => ⟨fun rest hagenda => ⟨_, step_of_instr_not_enabled h hagenda, beginStep_agenda_of_cons hagenda,
    changesOnly_beginStep s⟩, fun hagenda => ⟨_, step_of_nil_not_enabled h hagenda, ?frame⟩⟩
  case frame =>
    have hpass := changesOnly_passTime s.beginStep
    have hsame : s.beginStep.passTime.env.agenda = s.env.agenda := by
      rw [hpass .agenda (by decide)]
      simp [hagenda]
    have hboth : ChangesOnly [.agenda, .dt, .st, .ipfCnt, .divCnt, .strobes] s s.beginStep.passTime :=
      ((changesOnly_beginStep s).trans hpass).mono (by decide)
    exact hboth.drop hsame

/-! ### The key edge -/

theorem keyEdgeStep_of_waitKey (k : Key) {s : State} (h : s.mode = .waitKey) :
    s.keyEdgeStep k = ((s.setReg s.wx (BitVec.ofNat 8 k.val)).advance).setMode .run := by
  simp only [State.keyEdgeStep, h]

theorem keyEdgeStep_of_not_waitKey (k : Key) {s : State} (h : s.mode ≠ .waitKey) : s.keyEdgeStep k = s := by
  cases hm : s.mode <;> simp_all [State.keyEdgeStep]

theorem step_keyEdge {s : State} {k : Key} {rest : List Event} (h : s.env.agenda = .keyEdge k :: rest) :
    step s = .next (s.beginStep.keyEdgeStep k) := by
  rw [step_of_cons h, takeEvent]

theorem keyByte_toNat (k : Key) : (BitVec.ofNat 8 k.val : Byte).toNat = k.val := by
  have hk := k.isLt
  rw [BitVec.toNat_ofNat]
  omega

/-- Settles O33: in WAIT_KEY the resume writes V[wx], pc and the mode; elsewhere only the step's beginning remains. -/
theorem keyEdgeResumesOnlyTheWait : Obligations.KeyEdgeResumesOnlyTheWait := by
  intro s k rest h
  have hagenda := beginStep_agenda_of_cons h
  by_cases hwait : s.mode = .waitKey
  · have hstep := step_keyEdge h
    rw [keyEdgeStep_of_waitKey k (show s.beginStep.mode = .waitKey from hwait)] at hstep
    refine ⟨_, hstep, hagenda, rfl, fun _ => ⟨?key, fun z hz => ?others, rfl, rfl, ?frame⟩,
      fun hnot => absurd hwait hnot⟩
    case key => exact (congrArg BitVec.toNat (State.setReg_reg_same s.beginStep s.wx _)).trans (keyByte_toNat k)
    case others => exact State.setReg_reg_other s.beginStep _ hz
    case frame =>
      exact (((changesOnly_beginStep s).trans (changesOnly_setReg _ _ _)).trans
        ((changesOnly_setPc _ _).trans (changesOnly_setMode _ _))).mono (by decide)
  · have hstep := step_keyEdge h
    rw [keyEdgeStep_of_not_waitKey k (show s.beginStep.mode ≠ .waitKey from hwait)] at hstep
    exact ⟨_, hstep, hagenda, rfl, fun hyes => absurd hyes hwait, fun _ => changesOnly_beginStep s⟩

/-! ### A placed word -/

/-- s with a pc that can be fetched from, as `State.placeWord` takes it. -/
def State.fetchable (s : State) : State := if s.fetchInBounds then s else s.setPc 0x0200

/-- s with a budget that is not used up, as `State.placeWord` takes it. -/
def State.budgeted (s : State) : State := if s.ipfCnt < s.params.ipf then s else s.setIpfCnt 0

/-- s with the two bytes of a word at pc, high byte first. -/
def State.holdingWord (w : Word) (s : State) : State :=
  State.writeBytes (fun k => if k = 0 then w.extractLsb' 8 8 else w.extractLsb' 0 8) s.pc.toNat 2 s

theorem changesOnly_fetchable (s : State) : ChangesOnly [.pc] s s.fetchable := by
  unfold State.fetchable
  split
  · exact ChangesOnly.refl _ s
  · exact changesOnly_setPc s _

theorem fetchable_fits (s : State) : s.fetchable.FetchFits := by
  unfold State.fetchable
  split
  case isTrue h => exact (fetchInBounds_iff s).1 h
  case isFalse => exact .inr (show (0x0200 : Word).toNat ≤ 0xFFE by decide)

theorem changesOnly_budgeted (s : State) : ChangesOnly [.ipfCnt] s s.budgeted := by
  unfold State.budgeted
  split
  · exact ChangesOnly.refl _ s
  · exact changesOnly_setIpfCnt s 0

theorem budgeted_ipfCnt_lt {s : State} (h : 1 ≤ s.params.ipf) : s.budgeted.ipfCnt < s.budgeted.params.ipf := by
  unfold State.budgeted
  split
  case isTrue hlt => exact hlt
  case isFalse => exact h

theorem wordOfBytes_extract (w : Word) : wordOfBytes (w.extractLsb' 8 8) (w.extractLsb' 0 8) = w := by
  have hw := w.isLt
  apply BitVec.eq_of_toNat_eq
  rw [wordOfBytes_toNat, extractLsb'_toNat_eq_div_mod, extractLsb'_zero_toNat]
  omega

theorem changesOnly_holdingWord (w : Word) (s : State) : ChangesOnly [.mem] s (s.holdingWord w) :=
  changesOnly_writeBytes _ _ 2 s

theorem holdingWord_fetchWord (w : Word) (s : State) : (s.holdingWord w).fetchWord = w := by
  have hpc : (s.holdingWord w).pc = s.pc := changesOnly_holdingWord w s .pc (by decide)
  have hbyte (k : Nat) (hk : k < 2) : (s.holdingWord w).readByte (s.pc.toNat + k) = _ :=
    readByte_writeBytes_same _ s.pc.toNat 2 s (by decide) k hk
  have hhi := hbyte 0 (by decide)
  have hlo := hbyte 1 (by decide)
  rw [State.fetchWord, hpc, hlo]
  rw [Nat.add_zero] at hhi
  rw [hhi]
  exact wordOfBytes_extract w

/-- The next fetch depends on pc, memory and the parameters only. -/
theorem fetch_congr (s t : State) (hpc : t.pc = s.pc) (hmem : ∀ a, t.readByte a = s.readByte a)
    (hparams : t.params = s.params) : (t.FetchFits ↔ s.FetchFits) ∧
      decode t.params.decodeLenient t.fetchWord = decode s.params.decodeLenient s.fetchWord := by
  simp only [State.FetchFits, State.fetchWord, hpc, hmem, hparams, true_and]

/-- s with the word placed at a pc that can be fetched from, before the budget, the mode and the agenda are set. -/
def State.placed (s : State) (w : Nat) : State := s.fetchable.holdingWord (BitVec.ofNat 16 w)

theorem changesOnly_placed (s : State) (w : Nat) : ChangesOnly [.pc, .mem] s (s.placed w) :=
  (changesOnly_fetchable s).trans (changesOnly_holdingWord _ _)

theorem placed_fits (s : State) (w : Nat) : (s.placed w).FetchFits := by
  have hframe := changesOnly_holdingWord (BitVec.ofNat 16 w) s.fetchable
  have hpc : (s.placed w).pc = s.fetchable.pc := hframe .pc (by decide)
  have hparams : (s.placed w).params = s.fetchable.params := hframe .params (by decide)
  simpa only [State.FetchFits, hpc, hparams] using fetchable_fits s

theorem placed_env (s : State) (w : Nat) : (s.placed w).budgeted.env = s.env := by
  have hfetchable : s.fetchable.env = s.env := by unfold State.fetchable; split <;> rfl
  have hbudgeted (t : State) : t.budgeted.env = t.env := by unfold State.budgeted; split <;> rfl
  rw [hbudgeted, State.placed, State.holdingWord, State.writeBytes_env, hfetchable]

theorem withFetchWord_eq (s : State) (w : Nat) : s.withFetchWord 16 w =
    ((s.placed w).budgeted.setMode .run).setEnv { s.env with agenda := .instr :: s.env.agenda } := by
  have hw : BitVec.ofNat 16 (w % 2 ^ 16) = BitVec.ofNat 16 w := BitVec.eq_of_toNat_eq (by simp)
  have hplace : s.withFetchWord 16 w = ((s.placed w).budgeted.setMode .run).setEnv
      { (s.placed w).budgeted.env with agenda := .instr :: (s.placed w).budgeted.env.agenda } := by
    rw [State.placed, ← hw]
    rfl
  rw [hplace, placed_env]

/-- An instruction step offered beside an environment leaves that environment to exec. -/
theorem step_offered {v : State} {e : Env} {i : Instr} (henabled : v.Enabled) (hfit : v.FetchFits)
    (hdecode : decode v.params.decodeLenient v.fetchWord = .ok i) :
    step (v.setEnv { e with agenda := .instr :: e.agenda }) =
      exec i { v.setEnv { e with agenda := .instr :: e.agenda } with
        ipfCnt := (v.setEnv { e with agenda := .instr :: e.agenda }).ipfCnt + 1
        out := Signals.quiet
        env := e } :=
  step_of_decode henabled (.inr ⟨_, rfl⟩) hfit hdecode

/-- Settles O40: the placed word is fetched, whatever the budget, the mode and the agenda were. -/
theorem placedWordRunsNext : Obligations.PlacedWordRunsNext := by
  intro s w i hipf hdecode
  have hbudget := changesOnly_budgeted (s.placed w)
  have hparams : (s.placed w).params = s.params := changesOnly_placed s w .params (by decide)
  have hfetch := fetch_congr (s.placed w) (s.placed w).budgeted (hbudget .pc (by decide))
    (hbudget .mem (by decide)) (hbudget .params (by decide))
  have henabled : ((s.placed w).budgeted.setMode .run).Enabled :=
    ⟨rfl, budgeted_ipfCnt_lt (by rwa [hparams])⟩
  have hdecode' : decode (s.placed w).params.decodeLenient (s.placed w).fetchWord = .ok i := by
    rw [hparams, State.placed, holdingWord_fetchWord, hdecode]
  rw [withFetchWord_eq]
  exact step_offered henabled (hfetch.1.2 (placed_fits s w)) (hfetch.2.trans hdecode')

end Sys2Proof.Machine
end

section
/-! PROOF. Runs (spec/60_exceptions.md R210 to R216): ticks, clock cycles, the key wait from its issue to its edge, and
the events of one cycle. -/

namespace Sys2Proof.Machine

/-! ### Runs in a row -/

/-- A run of m + n steps is a run of m and a run of n. -/
theorem run_add (m n : Nat) {s t : State} (h : core.run m s = .next t) : core.run (m + n) s = core.run n t := by
  induction m generalizing s with
  | zero =>
    obtain rfl : s = t := Host.Outcome.next.inj h
    rw [Nat.zero_add]
  | succ m ih =>
    rw [Nat.add_right_comm]
    cases hstep : step s with
    | next u =>
      rw [run_succ _ s u hstep] at h ⊢
      exact ih h
    | fault r => cases r
    | refused r =>
      have hcore : core.step s = .refused r := hstep
      simp [Host.Core.run, hcore] at h

theorem run_one {s t : State} (h : step s = .next t) : core.run 1 s = .next t := run_succ 0 s t h

/-! ### Ticks -/

/-- Settles O43, by induction on the number of ticks. -/
theorem ticksCountTimersDown : Obligations.TicksCountTimersDown := by
  intro n
  induction n with
  | zero => exact fun s rest _ h => ⟨s, rfl, rfl, rfl, h, ChangesOnly.refl _ s⟩
  | succ n ih =>
    intro s rest hd h
    obtain ⟨u, hstep, hdt, hst, -, hagenda, -, hframe⟩ := tickStep s _ h hd
    have hdu : u.params.divider = none := by rw [hframe .params (by decide), hd]
    obtain ⟨t, hrun, hdt', hst', hagenda', hframe'⟩ := ih u rest hdu hagenda
    refine ⟨t, (run_succ n s u hstep).trans hrun, ?_, ?_, hagenda', (hframe.trans hframe').mono (by decide)⟩
    · rw [hdt', hdt, Nat.sub_sub, Nat.add_comm]
    · rw [hst', hst, Nat.sub_sub, Nat.add_comm]

/-! ### The divider -/

/-- Clock cycles that make no tick only count. -/
theorem run_clocks_before_tick (d k : Nat) : ∀ (s : State) (rest : List Event), s.params.divider = some d →
    s.divCnt + k < d → s.env.agenda = List.replicate k .clock ++ rest →
    ∃ t, core.run k s = .next t ∧ t.divCnt = s.divCnt + k ∧ t.env.agenda = rest ∧
      ChangesOnly [.divCnt, .agenda, .strobes] s t := by
  induction k with
  | zero => exact fun s rest _ _ h => ⟨s, rfl, rfl, h, ChangesOnly.refl _ s⟩
  | succ k ih =>
    intro s rest hd hlt h
    have hnot : s.beginStep.divCnt ≠ d - 1 := by
      show s.divCnt ≠ d - 1
      omega
    have hstep : step s = .next (s.beginStep.setDivCnt (s.divCnt + 1)) := by
      rw [step_clock h hd]
      exact congrArg _ (if_neg hnot)
    obtain ⟨t, hrun, hcnt, hagenda, hframe⟩ := ih (s.beginStep.setDivCnt (s.divCnt + 1)) rest hd
      (by simp only [State.setDivCnt_divCnt]; omega) (beginStep_agenda_of_cons h)
    refine ⟨t, (run_succ k s _ hstep).trans hrun, ?_, hagenda,
      (((changesOnly_beginStep s).trans (changesOnly_setDivCnt _ _)).trans hframe).mono (by decide)⟩
    rw [hcnt, State.setDivCnt_divCnt]
    omega

/-- What a tick does to the timers and the budget, and where it leaves the divider, which counts from 0 again. -/
def TickResult (rest : List Event) (s t : State) : Prop :=
  t.dt.toNat = s.dt.toNat - 1 ∧ t.st.toNat = s.st.toNat - 1 ∧ t.ipfCnt = 0 ∧
    (s.params.divider ≠ none → t.divCnt = 0) ∧ t.env.agenda = rest ∧
    ChangesOnly [.divCnt, .dt, .st, .ipfCnt, .agenda, .strobes] s t

/-- A due beat of the timer driver is a tick, whether the strobe or the divider's cycle makes it. -/
theorem step_beat {s : State} {rest : List Event} (hdue : s.tickDue = true)
    (h : s.env.agenda = timerBeat s.params.divider true ++ rest) : ∃ t, step s = .next t ∧ TickResult rest s t := by
  cases hd : s.params.divider with
  | none =>
    rw [hd] at h
    obtain ⟨t, hstep, hdt, hst, hipf, hagenda, -, hframe⟩ := tickStep s rest h hd
    exact ⟨t, hstep, hdt, hst, hipf, fun hne => absurd hd hne, hagenda, hframe.mono (by decide)⟩
  | some d =>
    rw [hd] at h
    have hstep : step s = .next (s.beginStep.tickStep.setDivCnt 0) := by
      rw [step_clock h hd, clockStep_of_due s.beginStep d hd hdue]
    refine ⟨_, hstep, countDown_toNat _, countDown_toNat _, rfl, fun _ => rfl, beginStep_agenda_of_cons h, ?_⟩
    exact (((changesOnly_beginStep s).trans (changesOnly_tickStep _)).trans (changesOnly_setDivCnt _ 0)).mono
      (by decide)

/-- Settles O44: the cycles count up to DIV - 1, make the tick, and count up again from 0. -/
theorem dividerTicksOncePerDiv : Obligations.DividerTicksOncePerDiv := by
  intro d s rest hd hlt h
  obtain ⟨k, hk⟩ : ∃ k, d = k + (1 + s.divCnt) := ⟨d - 1 - s.divCnt, by omega⟩
  have hagenda : s.env.agenda =
      List.replicate k .clock ++ .clock :: (List.replicate s.divCnt .clock ++ rest) := by
    rw [h, hk, ← List.replicate_append_replicate, ← List.replicate_append_replicate]
    simp
  obtain ⟨u, hrunu, hcntu, hagendau, hframeu⟩ := run_clocks_before_tick d k s _ hd (by omega) hagenda
  have hdu : u.params.divider = some d := (congrArg Params.divider (hframeu .params (by decide))).trans hd
  have hdue : u.tickDue = true := by
    simp only [State.tickDue, hdu, decide_eq_true_eq]
    omega
  obtain ⟨v, hstepv, hdt, hst, hipf, hcntv, hagendav, hframev⟩ := step_beat hdue (by rw [hagendau, hdu]; rfl)
  have hcntv : v.divCnt = 0 := hcntv (by simp [hdu])
  have hdv : v.params.divider = some d := (congrArg Params.divider (hframev .params (by decide))).trans hdu
  obtain ⟨t, hrunt, hcntt, hagendat, hframet⟩ := run_clocks_before_tick d s.divCnt v _ hdv (by omega) hagendav
  have hcnt : t.divCnt = s.divCnt := by omega
  have hframe : ChangesOnly [.divCnt, .dt, .st, .ipfCnt, .agenda, .strobes] s t :=
    ((hframeu.trans hframev).trans hframet).mono (by decide)
  refine ⟨t, ?run, hcnt, ?dt, ?st, ?ipf, hagendat, hframe.drop hcnt⟩
  case run =>
    calc core.run d s
        = core.run (k + (1 + s.divCnt)) s := by rw [← hk]
      _ = core.run (1 + s.divCnt) u := run_add k _ hrunu
      _ = core.run s.divCnt v := run_add 1 _ (run_one hstepv)
      _ = .next t := hrunt
  case dt => rw [hframet .dt (by decide), hdt, hframeu .dt (by decide)]
  case st => rw [hframet .st (by decide), hst, hframeu .st (by decide)]
  case ipf => rw [hframet .ipfCnt (by decide), hipf]

/-! ### The key wait -/

/-- Settles O34: the issue, the ticks and the edge are the steps of their own statements. -/
theorem keyWaitRunsToItsEdge : Obligations.KeyWaitRunsToItsEdge := by
  intro s x k n rest henabled hfit hd h hdecode
  have hissue : step s = .next (s.beginStep.countStep.suspend x) :=
    step_of_decode henabled (.inr ⟨_, h⟩) hfit hdecode
  have hframei := (changesOnly_beginStep_countStep s).trans (changesOnly_suspend s.beginStep.countStep x)
  obtain ⟨u, hrunu, hdt, hst, hagendau, hframeu⟩ := ticksCountTimersDown n (s.beginStep.countStep.suspend x)
    (.keyEdge k :: rest) hd (beginStep_agenda_of_cons h)
  have hwx : u.wx = x := hframeu .wx (by decide)
  obtain ⟨t, hstept, hagendat, -, hwait, -⟩ := keyEdgeResumesOnlyTheWait u k rest hagendau
  obtain ⟨hkey, hothers, hpc, hmode, hframet⟩ := hwait (hframeu .mode (by decide))
  rw [hwx] at hkey hothers
  refine ⟨t, ?run, hkey, fun z hz => ?others, ?pc, hmode, ?dt, ?st, hagendat, ?frame⟩
  case run =>
    calc core.run (n + 2) s
        = core.run (n + 1) (s.beginStep.countStep.suspend x) := run_succ (n + 1) s _ hissue
      _ = core.run 1 u := run_add n 1 hrunu
      _ = .next t := run_one hstept
  case others => exact (hothers z hz).trans (hframeu .regs (by decide) z)
  case pc => rw [hpc, hframeu .pc (by decide)]; rfl
  case dt => rw [hframet .dt (by decide), hdt]; rfl
  case st => rw [hframet .st (by decide), hst]; rfl
  case frame =>
    have hall : ChangesOnly [.mode, .regs, .pc, .wx, .dt, .st, .ipfCnt, .agenda, .strobes] s t :=
      ((hframei.trans hframeu).trans hframet).mono (by decide)
    exact hall.drop (hmode.trans henabled.1.symm)

/-! ### The events of one cycle -/

/-- Without a reset and an edge a cycle is its beat and its instruction. -/
theorem sameCycle_beat_instr (divider : Option Nat) (rest : List Event) :
    sameCycle divider false true none 1 ++ rest = timerBeat divider true ++ .instr :: rest := by
  simp [sameCycle]

/-- Without a reset a cycle with an edge is its beat, the edge and its instruction. -/
theorem sameCycle_beat_edge_instr (divider : Option Nat) (k : Key) (rest : List Event) :
    sameCycle divider false true (some k) 1 ++ rest = timerBeat divider true ++ .keyEdge k :: .instr :: rest := by
  simp [sameCycle]

/-- An instruction offered to a running core with a fresh budget is executed in a state that differs in the count, the
agenda and the strobes only. -/
theorem step_instr_after_tick {s : State} {i : Instr} {rest : List Event} (hmode : s.mode = .run)
    (hipf : 1 ≤ s.params.ipf) (hcnt : s.ipfCnt = 0) (hagenda : s.env.agenda = .instr :: rest) (hfit : s.FetchFits)
    (hdecode : decode s.params.decodeLenient s.fetchWord = .ok i) :
    ∃ v, step s = exec i v ∧ v.ipfCnt = 1 ∧ v.env.agenda = rest ∧ ChangesOnly [.ipfCnt, .agenda, .strobes] s v :=
  ⟨s.beginStep.countStep, step_of_decode ⟨hmode, by omega⟩ (.inr ⟨rest, hagenda⟩) hfit hdecode,
    congrArg (· + 1) hcnt, beginStep_agenda_of_cons hagenda, changesOnly_beginStep_countStep s⟩

/-- Settles O46: the tick leaves registers, pc and memory to the instruction, which then writes its timer. -/
theorem sameCycleTickComesFirst : Obligations.SameCycleTickComesFirst := by
  intro s x rest hmode hipf hfit hdue h
  rw [sameCycle_beat_instr] at h
  obtain ⟨u, hstepu, hdt, hst, hcnt, hdiv, hagenda, hframe⟩ := step_beat hdue h
  have hparams : u.params = s.params := hframe .params (by decide)
  have hfetch := fetch_congr s u (hframe .pc (by decide)) (hframe .mem (by decide)) hparams
  have hexec (i : Instr) (hdecode : decode s.params.decodeLenient s.fetchWord = .ok i) :=
    step_instr_after_tick ((hframe .mode (by decide)).trans hmode) (by rwa [hparams]) hcnt hagenda
      (hfetch.1.2 hfit) (hfetch.2.trans hdecode)
  have hrun {t : State} (ht : step u = .next t) : core.run 2 s = .next t :=
    (run_succ 1 s u hstepu).trans (run_one ht)
  have hboth {v : State} (hv : ChangesOnly [.ipfCnt, .agenda, .strobes] u v) := hframe.trans hv
  refine ⟨fun hdecode => ?dt, fun hdecode => ?st⟩
  case dt =>
    obtain ⟨v, hstepv, hcntv, hagendav, hframev⟩ := hexec _ hdecode
    refine ⟨_, hrun (hstepv.trans (exec_ldDtVx x v)), hboth hframev .regs (by decide) x, ?_, ?_, hcntv, hagendav,
      fun hne => (hframev .divCnt (by decide)).trans (hdiv hne)⟩
    · rw [← hst, ← hframev .st (by decide)]; rfl
    · rw [← hboth hframev .pc (by decide)]; rfl
  case st =>
    obtain ⟨v, hstepv, hcntv, hagendav, hframev⟩ := hexec _ hdecode
    refine ⟨_, hrun (hstepv.trans (exec_ldStVx x v)), hboth hframev .regs (by decide) x, ?_, ?_, hcntv, hagendav,
      fun hne => (hframev .divCnt (by decide)).trans (hdiv hne)⟩
    · rw [← hdt, ← hframev .dt (by decide)]; rfl
    · rw [← hboth hframev .pc (by decide)]; rfl

/-! ### A cycle with a reset -/

theorem step_reset {s : State} {rest : List Event} (h : s.env.agenda = .reset :: rest) :
    step s = .next s.beginStep.resetStep := by
  rw [step_of_cons h, takeEvent]

/-- A core in which time and the environment find nothing to do but to count clock cycles. -/
def State.Rested (s : State) : Prop := s.mode = .idle ∧ s.dt = 0 ∧ s.st = 0 ∧ s.ipfCnt = 0

/-- What may stand beside a reset in its cycle, behind it. -/
def BesideReset (divider : Option Nat) (e : Event) : Prop :=
  e = .instr ∨ (∃ k, e = .keyEdge k) ∨ (e = .tick ∧ divider = none) ∨ (e = .clock ∧ ∃ d, divider = some d)

theorem rested_of_changesOnly {s t : State} (hs : s.Rested) (h : ChangesOnly [.divCnt, .agenda, .strobes] s t) :
    t.Rested := by
  obtain ⟨hmode, hdt, hst, hipf⟩ := hs
  exact ⟨(h .mode (by decide)).trans hmode, (h .dt (by decide)).trans hdt, (h .st (by decide)).trans hst,
    (h .ipfCnt (by decide)).trans hipf⟩

/-- The tick of a rested core: timers at 0 stay at 0. -/
theorem changesOnly_tickStep_of_rested {s : State} (hs : s.Rested) : ChangesOnly [] s s.tickStep := by
  obtain ⟨-, hdt, hst, hipf⟩ := hs
  have hsame : s.tickStep.dt = s.dt ∧ s.tickStep.st = s.st ∧ s.tickStep.ipfCnt = s.ipfCnt := by
    simp [hdt, hst, hipf, countDown]
  exact (((changesOnly_tickStep s).drop hsame.1).drop hsame.2.1).drop hsame.2.2

theorem changesOnly_clockStep_of_rested {s : State} (hs : s.Rested) (d : Nat) :
    ChangesOnly [.divCnt] s (s.clockStep d) := by
  unfold State.clockStep
  split
  · exact (changesOnly_tickStep_of_rested hs).trans (changesOnly_setDivCnt _ 0)
  · exact changesOnly_setDivCnt s _

theorem step_of_rested {s : State} {e : Event} {rest : List Event} (hs : s.Rested)
    (he : BesideReset s.params.divider e) (h : s.env.agenda = e :: rest) :
    ∃ t, step s = .next t ∧ t.env.agenda = rest ∧ ChangesOnly [.divCnt, .agenda, .strobes] s t := by
  have hbegin := changesOnly_beginStep s
  have hbegun : s.beginStep.Rested := hs
  have hagenda := beginStep_agenda_of_cons h
  have hnotWait : s.mode ≠ .waitKey := by simp [hs.1]
  have hnotEnabled : ¬ s.Enabled := by simp [State.Enabled, hs.1]
  rcases he with rfl | ⟨k, rfl⟩ | ⟨rfl, hd⟩ | ⟨rfl, d, hd⟩
  · exact ⟨_, step_of_instr_not_enabled hnotEnabled h, hagenda, hbegin.mono (by decide)⟩
  · obtain ⟨t, hstep, hagendat, -, -, hframe⟩ := keyEdgeResumesOnlyTheWait s k rest h
    exact ⟨t, hstep, hagendat, (hframe hnotWait).mono (by decide)⟩
  · exact ⟨_, step_tick h hd, hagenda, (hbegin.trans (changesOnly_tickStep_of_rested hbegun)).mono (by decide)⟩
  · have hclock := changesOnly_clockStep_of_rested hbegun d
    exact ⟨_, step_clock h hd, (hclock .agenda (by decide)).trans hagenda, (hbegin.trans hclock).mono (by decide)⟩

theorem run_of_rested (es : List Event) : ∀ (s : State) (rest : List Event), s.Rested →
    (∀ e ∈ es, BesideReset s.params.divider e) → s.env.agenda = es ++ rest →
    ∃ t, core.run es.length s = .next t ∧ t.env.agenda = rest ∧ ChangesOnly [.divCnt, .agenda, .strobes] s t := by
  induction es with
  | nil => exact fun s rest _ _ h => ⟨s, rfl, h, ChangesOnly.refl _ s⟩
  | cons e es ih =>
    intro s rest hs hall h
    obtain ⟨u, hstep, hagenda, hframe⟩ := step_of_rested hs (hall e List.mem_cons_self) h
    have hparams : u.params = s.params := hframe .params (by decide)
    obtain ⟨t, hrun, hagendat, hframet⟩ := ih u rest (rested_of_changesOnly hs hframe)
      (fun e' he' => hparams ▸ hall e' (List.mem_cons_of_mem e he')) hagenda
    exact ⟨t, (run_succ es.length s u hstep).trans hrun, hagendat, (hframe.trans hframet).mono (by decide)⟩

theorem sameCycle_reset (divider : Option Nat) (strobe : Bool) (edge : Option Key) (n : Nat) :
    sameCycle divider true strobe edge n = .reset :: sameCycle divider false strobe edge n := rfl

theorem besideReset_of_mem_sameCycle {divider : Option Nat} {strobe : Bool} {edge : Option Key} {n : Nat} {e : Event}
    (h : e ∈ sameCycle divider false strobe edge n) : BesideReset divider e := by
  simp only [sameCycle, List.mem_append, List.mem_replicate] at h
  rcases h with ((h | hbeat) | hedge) | ⟨-, rfl⟩
  · cases h
  · cases divider <;> cases strobe <;> simp_all [timerBeat, BesideReset]
  · cases edge <;> simp_all [BesideReset]
  · exact .inl rfl

theorem run_sameCycle_reset {s : State} {strobe : Bool} {edge : Option Key} {n : Nat} {rest : List Event}
    (h : s.env.agenda = sameCycle s.params.divider true strobe edge n ++ rest) :
    ∃ t, core.run (sameCycle s.params.divider true strobe edge n).length s = .next t ∧
      t.mode = .idle ∧ t.env.agenda = rest ∧ ChangesOnly [.divCnt, .agenda, .strobes] s.resetStep t := by
  rw [sameCycle_reset] at h ⊢
  have hrested : s.beginStep.resetStep.Rested := ⟨rfl, rfl, rfl, rfl⟩
  obtain ⟨t, hrun, hagenda, hframe⟩ := run_of_rested (sameCycle s.params.divider false strobe edge n)
    s.beginStep.resetStep rest hrested (fun e he => besideReset_of_mem_sameCycle he) (beginStep_agenda_of_cons h)
  have hreset : ChangesOnly [.agenda] s.resetStep s.beginStep.resetStep :=
    changesOnly_setAgenda s.resetStep s.env.agenda.tail
  exact ⟨t, (run_succ _ s _ (step_reset h)).trans hrun, (rested_of_changesOnly hrested hframe).1, hagenda,
    (hreset.trans hframe).mono (by decide)⟩

/-- The tick, the edge and the instruction of one cycle, from a waiting core. -/
theorem run_beat_edge_instr {s : State} {k : Key} {x : RegIdx} {rest : List Event} (hmode : s.mode = .waitKey)
    (hipf : 1 ≤ s.params.ipf) (hfit : (s.setPc (s.pc + 2)).FetchFits) (hdue : s.tickDue = true)
    (h : s.env.agenda = timerBeat s.params.divider true ++ .keyEdge k :: .instr :: rest)
    (hdecode : decode s.params.decodeLenient (s.setPc (s.pc + 2)).fetchWord = .ok (.ldDtVx x)) :
    ∃ t, core.run 3 s = .next t ∧ (t.reg s.wx).toNat = k.val ∧ t.dt = t.reg x ∧
      t.st.toNat = s.st.toNat - 1 ∧ t.pc = s.pc + 4 ∧ t.mode = .run ∧ t.ipfCnt = 1 ∧ t.env.agenda = rest := by
  obtain ⟨u, hstepu, -, hst, hcnt, -, hagendau, hframeu⟩ := step_beat hdue h
  have hwx : u.wx = s.wx := hframeu .wx (by decide)
  obtain ⟨v, hstepv, hagendav, -, hwait, -⟩ := keyEdgeResumesOnlyTheWait u k _ hagendau
  obtain ⟨hkey, -, hpc, hmodev, hframev⟩ := hwait ((hframeu .mode (by decide)).trans hmode)
  have hboth := hframeu.trans hframev
  have hpcv : v.pc = s.pc + 2 := by rw [hpc, hframeu .pc (by decide)]
  have hparams : v.params = s.params := hboth .params (by decide)
  have hcntv : v.ipfCnt = 0 := (hframev .ipfCnt (by decide)).trans hcnt
  have hfetch := fetch_congr (s.setPc (s.pc + 2)) v hpcv (hboth .mem (by decide)) hparams
  obtain ⟨w, hstepw, hcntw, hagendaw, hframew⟩ := step_instr_after_tick hmodev (by rwa [hparams]) hcntv hagendav
    (hfetch.1.2 hfit) (hfetch.2.trans hdecode)
  have hstept : step v = .next (w.setDt (w.reg x)).advance := hstepw.trans (exec_ldDtVx x w)
  refine ⟨(w.setDt (w.reg x)).advance, ?run, ?key, rfl, ?st, ?pc, (hframew .mode (by decide)).trans hmodev, hcntw,
    hagendaw⟩
  case run =>
    exact (run_succ 2 s u hstepu).trans ((run_succ 1 u v hstepv).trans (run_one hstept))
  case key =>
    rw [← hkey, ← hwx, ← hframew .regs (by decide) u.wx]
    rfl
  case st =>
    rw [← hst, ← (hframev.trans hframew) .st (by decide)]
    rfl
  case pc =>
    show w.pc + 2 = s.pc + 4
    rw [hframew .pc (by decide), hpcv, BitVec.add_assoc]
    rfl

/-- Settles O59: behind a reset nothing finds anything to do; behind a tick the edge resumes the instruction. -/
theorem sameCycleResetFirstInstructionLast : Obligations.SameCycleResetFirstInstructionLast :=
  ⟨fun _ _ _ _ _ h => run_sameCycle_reset h, fun _ k _ rest hmode hipf hfit hdue h hdecode =>
    run_beat_edge_instr hmode hipf hfit hdue (h.trans (sameCycle_beat_edge_instr _ k rest)) hdecode⟩

end Sys2Proof.Machine
end

section
/-! PROOF. Reset, the host's load and start (spec/10_state.md R40; spec/70_reset_and_hazards.md R230 to R234). -/

namespace Sys2Proof.Machine

/-! ### The state after reset -/

theorem afterReset_reg (p : Params) (e : Env) (x : RegIdx) : (State.afterReset p e).reg x = 0 := by
  simp [State.afterReset, State.reg]

theorem afterReset_stackAt (p : Params) (e : Env) (j : BitVec 4) : (State.afterReset p e).stackAt j = 0 := by
  simp [State.afterReset, State.stackAt]

theorem afterReset_pixel (p : Params) (e : Env) (c : Fin 64) (r : Fin 32) :
    (State.afterReset p e).pixel c r = false := by
  simp [State.afterReset, State.pixel]

theorem afterReset_readByte (p : Params) (e : Env) {a : Nat} (ha : a < memSize) :
    (State.afterReset p e).readByte a = resetByte p a :=
  congrArg (resetByte p) (Nat.mod_eq_of_lt ha)

/-- Glyph d stands at 5d (10_state.md R29). -/
theorem resetByte_font (p : Params) (d : Fin 16) (r : Fin 5) :
    resetByte p (5 * d.val + r.val) = (p.font[d.val])[r.val] := by
  have hlt : 5 * d.val + r.val < 80 := by omega
  have hd : (5 * d.val + r.val) / 5 = d.val := by omega
  have hr : (5 * d.val + r.val) % 5 = r.val := by omega
  simp only [resetByte, hlt, dif_pos, hd, hr]

theorem resetByte_of_ge (p : Params) {a : Nat} (ha : 80 ≤ a) : resetByte p a = 0 :=
  dif_neg (Nat.not_lt.2 ha)

/-- Only what is not the core's survives a reset. -/
theorem changesOnly_resetStep (s : State) : ChangesOnly
    [.regs, .index, .pc, .stack, .sp, .mem, .fb, .dt, .st, .mode, .wx, .fault, .ipfCnt, .divCnt, .agenda, .strobes]
    s s.resetStep := by
  intro p hp
  cases p with
  | params | keyLevels => rfl
  | rnd => exact ⟨rfl, rfl⟩
  | _ => exact absurd (by decide) hp

/-- Settles O47: every field is that of the state after reset, and unlisted memory reads as the font or 0x00. -/
theorem resetStep : Obligations.ResetStep := fun s rest h =>
  ⟨s.beginStep.resetStep, step_reset h, afterReset_reg _ _, rfl, rfl, afterReset_stackAt _ _, rfl, rfl, rfl,
    afterReset_pixel _ _, rfl, rfl, rfl, rfl, rfl, rfl,
    fun d r => (afterReset_readByte _ _ (show _ < 4096 by omega)).trans (resetByte_font _ d r),
    fun _ hlow hlt => (afterReset_readByte _ _ hlt).trans (resetByte_of_ge _ hlow),
    rfl, beginStep_agenda_of_cons h,
    ((changesOnly_beginStep s).trans (changesOnly_resetStep _)).mono (by decide)⟩

/-! ### The host's load -/

theorem step_load_success {s : State} {rom : List Byte} {rest : List Event} (h : s.env.agenda = .load rom :: rest)
    (hmode : s.mode = .idle) (hlen : rom.length ≤ maxRom) : step s = .next
      ((State.writeBytes (fun i => rom.getD i 0) progBase rom.length s.beginStep).setOut
        { Signals.quiet with loadResult := some .success }) := by
  have hidle : s.beginStep.mode = .idle := hmode
  rw [step_of_cons h]
  simp only [takeEvent, State.loadStep, hidle, hlen, if_true]
  rfl

theorem step_load_tooLarge {s : State} {rom : List Byte} {rest : List Event} (h : s.env.agenda = .load rom :: rest)
    (hmode : s.mode = .idle) (hlen : ¬ rom.length ≤ maxRom) :
    step s = .next (s.beginStep.setOut { Signals.quiet with loadResult := some .tooLarge }) := by
  have hidle : s.beginStep.mode = .idle := hmode
  rw [step_of_cons h]
  simp only [takeEvent, State.loadStep, hidle, hlen, if_false]
  rfl

/-- A loaded ROM ends within memory, so its bytes do not wrap. -/
theorem progBase_add_lt {rom : List Byte} (hlen : rom.length ≤ maxRom) {i : Nat} (hi : i < rom.length) :
    progBase + i < memSize := by
  simp only [progBase, memSize, maxRom] at hlen ⊢
  omega

/-- Settles O49: the two cases of the length. -/
theorem hostLoad : Obligations.HostLoad := by
  intro s rom rest h hmode
  have hbegin := changesOnly_beginStep s
  by_cases hlen : rom.length ≤ maxRom
  · refine ⟨_, step_load_success h hmode hlen, ?agenda, fun _ => ⟨rfl, fun i hi => ?stored, fun a ha hout => ?kept,
      ?frame⟩, fun hlarge => absurd hlen (Nat.not_le.2 hlarge)⟩
    case agenda =>
      rw [State.setOut_env, State.writeBytes_env]
      exact beginStep_agenda_of_cons h
    case stored =>
      exact readByte_writeBytes_same _ progBase _ s.beginStep (Nat.le_trans hlen (by decide)) i hi
    case kept =>
      refine readByte_writeBytes_other _ progBase _ s.beginStep a fun j hj => ?_
      rw [Nat.mod_eq_of_lt ha, Nat.mod_eq_of_lt (progBase_add_lt hlen hj)]
      exact hout j hj
    case frame =>
      exact ((hbegin.trans (changesOnly_writeBytes _ _ _ _)).trans (changesOnly_setOut _ _)).mono (by decide)
  · exact ⟨_, step_load_tooLarge h hmode hlen, beginStep_agenda_of_cons h, fun hle => absurd hle hlen,
      fun _ => ⟨rfl, (hbegin.trans (changesOnly_setOut _ _)).mono (by decide)⟩⟩

/-! ### Boot -/

theorem step_start {s : State} {rest : List Event} (h : s.env.agenda = .start :: rest) (hmode : s.mode = .idle) :
    step s = .next (s.beginStep.setMode .run) := by
  have hidle : s.beginStep.mode = .idle := hmode
  rw [step_of_cons h]
  simp only [takeEvent, State.startStep, hidle]

/-- Settles O48: reset leaves 0x00 above the font, the load puts the ROM there, and start changes the mode only. -/
theorem bootRunsTheRom : Obligations.BootRunsTheRom := by
  intro s rom rest hlen h
  obtain ⟨u, hstepu, hreg, hi, hpc, -, hsp, hdt, hst, hpixel, hidle, -, -, -, -, -, -, hzero, -, hagendau, -⟩ :=
    resetStep s _ h
  obtain ⟨v, hstepv, hagendav, hload, -⟩ := hostLoad u rom _ hagendau hidle
  obtain ⟨-, hrom, hkept, hframe⟩ := hload hlen
  have hstept := step_start hagendav ((hframe .mode (by decide)).trans hidle)
  have hbeyond (a : Nat) (ha : 0x200 + rom.length ≤ a) (hlt : a < memSize) : v.readByte a = 0 := by
    rw [hkept a hlt (fun i hi => by simp only [progBase]; omega)]
    exact hzero a (by omega) hlt
  have hbyte (i : Nat) (hi : i < 2) : v.readByte (0x200 + i) = rom.getD i 0 := by
    by_cases hin : i < rom.length
    · exact hrom i hin
    · rw [hbeyond (0x200 + i) (by omega) (by simp only [memSize]; omega)]
      simp [List.getD, Nat.not_lt.1 hin]
  have hpcv : v.pc = 0x200 := (hframe .pc (by decide)).trans hpc
  refine ⟨v.beginStep.setMode .run, ?run, rfl, hpcv, beginStep_agenda_of_cons hagendav, hrom, hbeyond, ?fetch,
    fun x => (hframe .regs (by decide) x).trans (hreg x), (hframe .index (by decide)).trans hi,
    (hframe .sp (by decide)).trans hsp, (hframe .dt (by decide)).trans hdt, (hframe .st (by decide)).trans hst,
    fun c r => (hframe .fb (by decide) c r).trans (hpixel c r)⟩
  case run => exact (run_succ 2 s u hstepu).trans ((run_succ 1 u v hstepv).trans (run_one hstept))
  case fetch =>
    show v.fetchWord.toNat = _
    rw [fetchWord_toNat, hpcv]
    show (v.readByte (0x200 + 0)).toNat * 256 + (v.readByte (0x200 + 1)).toNat = _
    rw [hbyte 0 (by decide), hbyte 1 (by decide)]

end Sys2Proof.Machine
end

section
/-! PROOF. The whole machine: which steps of the environment are refused (spec/40_pipeline.md R110), what each kind of
step changes, and how the run states are entered and left (spec/60_exceptions.md R201, R223; spec/10_state.md R34). -/

namespace Sys2Proof.Machine

/-! ### Nothing but host misuse is refused -/

theorem exec_total (i : Instr) (s : State) : ∃ t, exec i s = .next t := by
  obtain ⟨t, h, -⟩ := exec_spec i s
  exact ⟨t, h⟩

theorem instructionStep_total (s : State) : ∃ t, instructionStep s = .next t := by
  by_cases hfit : s.FetchFits
  · cases hdecode : decode s.params.decodeLenient s.fetchWord with
    | ok i =>
      rw [instructionStep_of_ok hfit hdecode]
      exact exec_total i _
    | error e => exact ⟨_, instructionStep_of_error hfit hdecode⟩
  · exact ⟨_, instructionStep_of_not_fits hfit⟩

theorem step_total_of_instrNext {s : State} (h : s.InstrNext) : ∃ t, step s = .next t := by
  by_cases henabled : s.Enabled
  · rw [step_of_enabled henabled h]
    exact instructionStep_total _
  · rcases h with hnil | ⟨rest, hcons⟩
    · exact ⟨_, step_of_nil_not_enabled henabled hnil⟩
    · exact ⟨_, step_of_instr_not_enabled henabled hcons⟩

theorem step_tick_refused {s : State} {rest : List Event} (h : s.env.agenda = .tick :: rest)
    (hd : s.params.divider ≠ none) : step s = .refused .tickStrobeWithDivider := by
  obtain ⟨d, hd⟩ := Option.ne_none_iff_exists'.1 hd
  have hd' : s.beginStep.params.divider = some d := hd
  rw [step_of_cons h]
  simp only [takeEvent, State.tickStrobe, hd']

theorem step_clock_refused {s : State} {rest : List Event} (h : s.env.agenda = .clock :: rest)
    (hd : s.params.divider = none) : step s = .refused .clockWithoutDivider := by
  have hd' : s.beginStep.params.divider = none := hd
  rw [step_of_cons h]
  simp only [takeEvent, State.clockCycle, hd']

theorem step_start_refused {s : State} {rest : List Event} (h : s.env.agenda = .start :: rest)
    (hmode : s.mode ≠ .idle) : step s = .refused .startOutsideIdle := by
  rw [step_of_cons h, takeEvent, State.startStep]
  split
  case h_1 hidle => exact absurd hidle hmode
  all_goals rfl

theorem step_load_refused {s : State} {rom : List Byte} {rest : List Event} (h : s.env.agenda = .load rom :: rest)
    (hmode : s.mode ≠ .idle) : step s = .refused .loadOutsideIdle := by
  rw [step_of_cons h, takeEvent, State.loadStep]
  split
  case h_1 hidle => exact absurd hidle hmode
  all_goals rfl

/-- Settles O50: the agenda's next entry and the mode or the divider decide between a next state and a refusal. -/
theorem onlyHostMisuseIsRefused : Obligations.OnlyHostMisuseIsRefused := by
  refine ⟨exec_total, fun s => ?_⟩
  cases h : s.env.agenda with
  | nil =>
    obtain ⟨t, hstep⟩ := step_total_of_instrNext (.inl h)
    simp [hstep]
  | cons e rest =>
    cases e with
    | instr =>
      obtain ⟨t, hstep⟩ := step_total_of_instrNext (.inr ⟨rest, h⟩)
      simp [hstep]
    | tick =>
      by_cases hd : s.params.divider = none
      · simp [step_tick h hd, hd]
      · simp [step_tick_refused h hd, hd]
    | clock =>
      cases hd : s.params.divider with
      | none => simp [step_clock_refused h hd]
      | some d => simp [step_clock h hd]
    | keyEdge k => simp [step_keyEdge h]
    | keys levels => simp [step_of_cons h, takeEvent]
    | reset => simp [step_reset h]
    | start =>
      by_cases hmode : s.mode = .idle
      · simp [step_start h hmode, hmode]
      · simp [step_start_refused h hmode, hmode]
    | load rom =>
      by_cases hmode : s.mode = .idle
      · obtain ⟨t, hstep, -⟩ := hostLoad s rom rest h hmode
        simp [hstep, hmode]
      · simp [step_load_refused h hmode, hmode]

/-! ### Frames of the steps -/

theorem changesOnly_keyEdgeStep (k : Key) (s : State) : ChangesOnly [.regs, .pc, .mode] s (s.keyEdgeStep k) := by
  by_cases hwait : s.mode = .waitKey
  · rw [keyEdgeStep_of_waitKey k hwait]
    exact ((changesOnly_setReg s _ _).trans (changesOnly_setPc _ _)).trans (changesOnly_setMode _ _)
  · rw [keyEdgeStep_of_not_waitKey k hwait]
    exact ChangesOnly.refl _ s

theorem instructionStep_changesOnly {s t : State} (h : instructionStep s = .next t) : ChangesOnly
    [.regs, .mem, .fb, .stack, .sp, .index, .dt, .st, .rnd, .mode, .wx, .fault, .pc, .strobes, .ipfCnt] s t := by
  have hcount := changesOnly_setIpfCnt s (s.ipfCnt + 1)
  rcases instructionStep_cases h with ⟨-, rfl⟩ | ⟨-, -, rfl⟩ | ⟨-, i, -, hexec⟩
  · exact (hcount.trans (changesOnly_raiseFault _ _ _)).mono (by decide)
  · exact (hcount.trans (changesOnly_reportUnknown _ _)).mono (by decide)
  · exact (hcount.trans (exec_changesOnly hexec)).mono (by decide)

/-- Every instruction step counts once. -/
theorem instructionStep_ipfCnt {s t : State} (h : instructionStep s = .next t) : t.ipfCnt = s.ipfCnt + 1 := by
  rcases instructionStep_cases h with ⟨-, rfl⟩ | ⟨-, -, rfl⟩ | ⟨-, i, -, hexec⟩
  · rfl
  · exact changesOnly_reportUnknown _ s.countStep .ipfCnt (by decide)
  · exact exec_changesOnly hexec .ipfCnt (by decide)

theorem raisedBy_mem {i : Instr} {s : State} {code : FaultCode} {info : BitVec 17} (h : RaisedBy i s code info) :
    code ∈ [.stackOverflow, .stackUnderflow, .memBounds, .fetchBounds, .keyRange] := by
  rcases h with ⟨rfl, -⟩ | ⟨rfl, -⟩ | ⟨rfl, -⟩ | ⟨rfl, -⟩ <;> simp

/-- The mode after an instruction step: RUN, a key wait that the word asked for, or HALTED with a recorded fault. -/
theorem instructionStep_mode {s t : State} (h : instructionStep s = .next t) :
    t.mode = s.mode ∨
    (t.mode = .waitKey ∧ ∃ x, decode s.params.decodeLenient s.fetchWord = .ok (.ldVxK x) ∧ t.wx = x) ∨
    (t.mode = .halted ∧ t.fault ∈ [.stackOverflow, .stackUnderflow, .memBounds, .fetchBounds, .keyRange]) := by
  rcases instructionStep_cases h with ⟨-, rfl⟩ | ⟨-, -, rfl⟩ | ⟨-, i, hdecode, hexec⟩
  · exact .inr (.inr ⟨rfl, by simp⟩)
  · exact .inl (changesOnly_reportUnknown _ s.countStep .mode (by decide))
  · rcases exec_mode hexec with hsame | ⟨x, rfl, rfl⟩ | ⟨code, info, hraised, rfl⟩
    · exact .inl hsame
    · exact .inr (.inl ⟨rfl, x, hdecode, rfl⟩)
    · exact .inr (.inr ⟨rfl, raisedBy_mem hraised⟩)

/-- What a step does to the mode: an instruction step; one that only lets time, counters and inputs pass; a load; the
resume of the key wait; a reset; a start. -/
theorem step_mode_cases {s t : State} (h : step s = .next t) :
    (s.Enabled ∧ s.InstrNext ∧ instructionStep s.beginStep = .next t) ∨
    ChangesOnly [.dt, .st, .ipfCnt, .divCnt, .agenda, .keyLevels, .strobes] s t ∨
    (s.mode = .idle ∧ ChangesOnly [.mem, .agenda, .strobes] s t) ∨
    (s.mode = .waitKey ∧ t.mode = .run ∧ (∃ k rest, s.env.agenda = .keyEdge k :: rest) ∧
      ChangesOnly [.regs, .pc, .mode, .agenda, .strobes] s t) ∨
    ((∃ rest, s.env.agenda = .reset :: rest) ∧ t = s.beginStep.resetStep) ∨
    (s.mode = .idle ∧ t.mode = .run ∧ (∃ rest, s.env.agenda = .start :: rest) ∧
      ChangesOnly [.mode, .agenda, .strobes] s t) := by
  have hbegin := changesOnly_beginStep s
  have hquiet {ps : List Part} {u : State} (hu : ChangesOnly ps s.beginStep u)
      (hps : [Part.agenda, .strobes] ++ ps ⊆ [.dt, .st, .ipfCnt, .divCnt, .agenda, .keyLevels, .strobes]) :
      ChangesOnly [.dt, .st, .ipfCnt, .divCnt, .agenda, .keyLevels, .strobes] s u := (hbegin.trans hu).mono hps
  rcases step_cases h with hinstr | ⟨-, -, rfl⟩ | ⟨-, -, rfl⟩ | ⟨-, -, rfl⟩ | ⟨d, -, -, rfl⟩ | ⟨k, ⟨rest, ha⟩, rfl⟩ |
    ⟨levels, -, rfl⟩ | hreset | ⟨hidle, ha, rfl⟩ | ⟨rom, hidle, ⟨rest, ha⟩, -⟩
  · exact .inl hinstr
  · exact .inr (.inl (hbegin.mono (by decide)))
  · exact .inr (.inl (hquiet (changesOnly_passTime _) (by decide)))
  · exact .inr (.inl (hquiet (changesOnly_tickStep _) (by decide)))
  · exact .inr (.inl (hquiet (changesOnly_clockStep d _) (by decide)))
  · have hstep := step_keyEdge ha
    obtain ⟨u, hu, -, -, hwait, hother⟩ := keyEdgeResumesOnlyTheWait s k rest ha
    obtain rfl := Host.Outcome.next.inj (hstep.symm.trans hu)
    by_cases hmode : s.mode = .waitKey
    · obtain ⟨-, -, -, hrun, hframe⟩ := hwait hmode
      exact .inr (.inr (.inr (.inl ⟨hmode, hrun, ⟨k, rest, ha⟩, hframe⟩)))
    · exact .inr (.inl ((hother hmode).mono (by decide)))
  · exact .inr (.inl (hquiet (changesOnly_setKeyLevels s.beginStep levels) (by decide)))
  · exact .inr (.inr (.inr (.inr (.inl hreset))))
  · exact .inr (.inr (.inr (.inr (.inr ⟨hidle, rfl, ha, (hbegin.trans (changesOnly_setMode _ _)).mono (by decide)⟩))))
  · obtain ⟨u, hu, -, hsmall, hlarge⟩ := hostLoad s rom rest ha hidle
    obtain rfl := Host.Outcome.next.inj (h.symm.trans hu)
    refine .inr (.inr (.inl ⟨hidle, ?_⟩))
    by_cases hlen : rom.length ≤ maxRom
    · exact (hsmall hlen).2.2.2
    · exact (hlarge (Nat.not_le.1 hlen)).2.mono (by decide)

/-- Settles O54: only the environment's own parts and the parameters survive a reset, and nothing else writes them. -/
theorem stepKeepsParameters : Obligations.StepKeepsParameters := by
  intro s t h
  rcases step_mode_cases h with ⟨-, -, hinstr⟩ | hframe | ⟨-, hframe⟩ | ⟨-, -, -, hframe⟩ | ⟨-, rfl⟩ | ⟨-, -, -, hframe⟩
  case inl => exact instructionStep_changesOnly hinstr .params (by decide)
  case inr.inr.inr.inr.inl => rfl
  all_goals exact hframe .params (by decide)

/-! ### The run states -/

/-- What a step changes when no instruction runs and the mode stays: timers, counters and inputs. -/
def Waits (s t : State) : Prop :=
  t.mode = s.mode ∧ ChangesOnly [.dt, .st, .ipfCnt, .divCnt, .agenda, .keyLevels, .strobes] s t

theorem waits_of_changesOnly {s t : State}
    (h : ChangesOnly [.dt, .st, .ipfCnt, .divCnt, .agenda, .keyLevels, .strobes] s t) : Waits s t :=
  ⟨h .mode (by decide), h⟩

theorem step_from_idle {s t : State} (h : step s = .next t) (hm : s.mode = .idle) :
    t.mode = .idle ∨ (t.mode = .run ∧ ∃ rest, s.env.agenda = .start :: rest) := by
  rcases step_mode_cases h with ⟨henabled, -, -⟩ | hquiet | ⟨-, hload⟩ | ⟨hwait, -⟩ | ⟨-, rfl⟩ | ⟨-, hrun, hstart, -⟩
  · cases hm.symm.trans henabled.1
  · exact .inl ((hquiet .mode (by decide)).trans hm)
  · exact .inl ((hload .mode (by decide)).trans hm)
  · cases hm.symm.trans hwait
  · exact .inl rfl
  · exact .inr ⟨hrun, hstart⟩

theorem step_from_waitKey {s t : State} (h : step s = .next t) (hm : s.mode = .waitKey) :
    Waits s t ∨ (t.mode = .run ∧ ∃ k rest, s.env.agenda = .keyEdge k :: rest) ∨
      (t.mode = .idle ∧ ∃ rest, s.env.agenda = .reset :: rest) := by
  rcases step_mode_cases h with ⟨henabled, -, -⟩ | hquiet | ⟨hidle, -⟩ | ⟨-, hrun, hedge, -⟩ |
    ⟨hreset, rfl⟩ | ⟨hidle, -⟩
  · cases hm.symm.trans henabled.1
  · exact .inl (waits_of_changesOnly hquiet)
  · cases hm.symm.trans hidle
  · exact .inr (.inl ⟨hrun, hedge⟩)
  · exact .inr (.inr ⟨rfl, hreset⟩)
  · cases hm.symm.trans hidle

theorem step_from_halted {s t : State} (h : step s = .next t) (hm : s.mode = .halted) :
    Waits s t ∨ (t.mode = .idle ∧ ∃ rest, s.env.agenda = .reset :: rest) := by
  rcases step_mode_cases h with ⟨henabled, -, -⟩ | hquiet | ⟨hidle, -⟩ | ⟨hwait, -⟩ | ⟨hreset, rfl⟩ | ⟨hidle, -⟩
  · cases hm.symm.trans henabled.1
  · exact .inl (waits_of_changesOnly hquiet)
  · cases hm.symm.trans hidle
  · cases hm.symm.trans hwait
  · exact .inr ⟨rfl, hreset⟩
  · cases hm.symm.trans hidle

theorem step_from_run {s t : State} (h : step s = .next t) (hm : s.mode = .run) :
    t.mode = .run ∨
    (t.mode = .waitKey ∧ s.Enabled ∧ s.InstrNext ∧
      ∃ x, decode s.params.decodeLenient s.fetchWord = .ok (.ldVxK x) ∧ t.wx = x) ∨
    (t.mode = .halted ∧ s.Enabled ∧ s.InstrNext ∧
      t.fault ∈ [.stackOverflow, .stackUnderflow, .memBounds, .fetchBounds, .keyRange]) ∨
    (t.mode = .idle ∧ ∃ rest, s.env.agenda = .reset :: rest) := by
  rcases step_mode_cases h with ⟨henabled, hnext, hinstr⟩ | hquiet | ⟨hidle, -⟩ | ⟨hwait, -⟩ |
    ⟨hreset, rfl⟩ | ⟨hidle, -⟩
  · rcases instructionStep_mode hinstr with hsame | ⟨hwait, hword⟩ | ⟨hhalted, hfault⟩
    · exact .inl (hsame.trans hm)
    · exact .inr (.inl ⟨hwait, henabled, hnext, hword⟩)
    · exact .inr (.inr (.inl ⟨hhalted, henabled, hnext, hfault⟩))
  · exact .inl ((hquiet .mode (by decide)).trans hm)
  · cases hm.symm.trans hidle
  · cases hm.symm.trans hwait
  · exact .inr (.inr (.inr ⟨rfl, hreset⟩))
  · cases hm.symm.trans hidle

theorem step_into_waitKey {s t : State} (h : step s = .next t) (hs : s.mode ≠ .waitKey) (ht : t.mode = .waitKey) :
    s.mode = .run ∧ ∃ x, decode s.params.decodeLenient s.fetchWord = .ok (.ldVxK x) ∧ t.wx = x := by
  cases hm : s.mode with
  | idle => rcases step_from_idle h hm with hidle | ⟨hrun, -⟩ <;> simp_all
  | run =>
    rcases step_from_run h hm with hrun | ⟨-, -, -, hword⟩ | ⟨hhalted, -⟩ | ⟨hidle, -⟩
    · cases ht.symm.trans hrun
    · exact ⟨rfl, hword⟩
    · cases ht.symm.trans hhalted
    · cases ht.symm.trans hidle
  | waitKey => exact absurd hm hs
  | halted => rcases step_from_halted h hm with ⟨hsame, -⟩ | ⟨hidle, -⟩ <;> simp_all

/-- Settles O55: one lemma for each mode that is left, and one for the wait that is entered. -/
theorem modesAreLeftOnlyAsStated : Obligations.ModesAreLeftOnlyAsStated := by
  refine fun s t h => ⟨step_into_waitKey h, fun hm => ?wait, fun hm => ?halted, step_from_idle h, fun hm => ?run⟩
  case wait => simpa only [Waits, hm] using step_from_waitKey h hm
  case halted => simpa only [Waits, hm] using step_from_halted h hm
  case run =>
    refine (step_from_run h hm).imp_right fun hleft => hleft.imp_left ?_
    exact fun ⟨hmode, henabled, hnext, _⟩ => ⟨hmode, henabled, hnext⟩

end Sys2Proof.Machine
end

section
/-! PROOF. The invariant of every step (spec/10_state.md R27, R28, R34 to R37): the parts it speaks of, then instructions,
then every other step. -/

namespace Sys2Proof.Machine

/-- The invariant speaks of memory's form, the parameters, the counters, the mode, the fault register and the base of
the stack. -/
theorem inv_of_changesOnly {s t : State} (hs : s.Inv) (hmem : Memory.wf t.params t.mem = true)
    (hbase : t.stackAt 0 = s.stackAt 0) (h : ChangesOnly
      [.regs, .index, .pc, .stack, .sp, .mem, .fb, .dt, .st, .wx, .agenda, .keyLevels, .rnd, .strobes] s t) :
    t.Inv := by
  have hparams : t.params = s.params := h .params (by decide)
  have hipf : t.ipfCnt = s.ipfCnt := h .ipfCnt (by decide)
  have hdiv : t.divCnt = s.divCnt := h .divCnt (by decide)
  have hmode : t.mode = s.mode := h .mode (by decide)
  obtain ⟨hfault, hinfo⟩ : t.fault = s.fault ∧ t.faultInfo = s.faultInfo := h .fault (by decide)
  constructor
  case memCanonical => exact hmem
  case budgetPositive => rw [hparams]; exact hs.budgetPositive
  case budgetKept => rw [hparams, hipf]; exact hs.budgetKept
  case dividerAbsent => rw [hparams, hdiv]; exact hs.dividerAbsent
  case dividerBelow => rw [hparams, hdiv]; exact hs.dividerBelow
  case haltedIffFault => rw [hmode, hfault]; exact hs.haltedIffFault
  case infoClear => rw [hfault, hinfo]; exact hs.infoClear
  case faultKind => rw [hfault]; exact hs.faultKind
  case stackBase => rw [hbase]; exact hs.stackBase

theorem inv_beginStep {s : State} (hs : s.Inv) : s.beginStep.Inv :=
  inv_of_changesOnly hs hs.memCanonical rfl ((changesOnly_beginStep s).mono (by decide))

theorem inv_setIpfCnt {s : State} (hs : s.Inv) {n : Nat} (hn : n ≤ s.params.ipf) : (s.setIpfCnt n).Inv :=
  { hs with budgetKept := hn }

theorem inv_setDivCnt {s : State} (hs : s.Inv) {d n : Nat} (hd : s.params.divider = some d) (hn : n < d) :
    (s.setDivCnt n).Inv :=
  { hs with
    dividerAbsent := fun hnone => by cases hd.symm.trans hnone
    dividerBelow := fun d' hd' => by cases hd.symm.trans hd'; exact hn }

theorem inv_raiseFault {s : State} (hs : s.Inv) {code : FaultCode} (info : BitVec 17)
    (hcode : code ∈ [.stackOverflow, .stackUnderflow, .memBounds, .fetchBounds, .keyRange]) :
    (s.raiseFault code info).Inv := by
  have hkind : code ≠ .none ∧ code ≠ .unknownOpcode ∧ code ≠ .loadTooLarge := by
    cases code <;> simp_all
  exact { hs with
    haltedIffFault := ⟨fun _ => hkind.1, fun _ => rfl⟩
    infoClear := fun hnone => absurd hnone hkind.1
    faultKind := hkind.2 }

/-- A core that has not halted may take any other mode but HALTED. -/
theorem inv_setMode {s : State} (hs : s.Inv) (hm : s.mode ≠ .halted) {m : Mode} (hne : m ≠ .halted) :
    (s.setMode m).Inv :=
  { hs with haltedIffFault := iff_of_false hne fun hfault => hm (hs.haltedIffFault.2 hfault) }

theorem inv_suspend {s : State} (hs : s.Inv) (hm : s.mode ≠ .halted) (x : RegIdx) : (s.suspend x).Inv :=
  { hs with haltedIffFault := iff_of_false (by simp) fun hfault => hm (hs.haltedIffFault.2 hfault) }

/-! ### The invariant along an instruction -/

theorem exec_keeps_wf {i : Instr} {s t : State} (h : exec i s = .next t) (hwf : Memory.wf s.params s.mem = true) :
    Memory.wf t.params t.mem = true := by
  have hparams : t.params = s.params := exec_changesOnly h .params (by decide)
  rw [hparams]
  rcases exec_cases h with ⟨-, hsame | ⟨f, ea, n, hwrite⟩⟩ | ⟨code, info, -, rfl⟩
  · rwa [hsame]
  · rw [hwrite]
    exact writeBytes_keeps_wf f ea n s hwf
  · exact hwf

/-- A call that does not fault pushes above the entry SP names, so never to STACK[0] (10_state.md R27). -/
theorem exec_stackAt_zero {i : Instr} {s t : State} (h : exec i s = .next t) : t.stackAt 0 = s.stackAt 0 := by
  by_cases hstack : Part.stack ∈ writtenParts i
  · obtain ⟨nnn, rfl⟩ := (stack_mem_writtenParts_iff i).1 hstack
    rw [exec_call] at h
    split at h
    case isTrue =>
      cases h
      rfl
    case isFalse hsp =>
      cases h
      have hne : (0 : BitVec 4) ≠ s.sp + 1 := by
        intro hzero
        apply hsp
        bv_omega
      exact (push_stackAt s s.pc 0).trans (if_neg hne)
  · exact exec_keeps h .stack hstack (by decide) 0

theorem exec_keeps_inv {i : Instr} {s t : State} (hs : s.Inv) (hrun : s.mode = .run) (h : exec i s = .next t) :
    t.Inv := by
  have hm : s.mode ≠ .halted := by simp [hrun]
  rcases exec_cases h with ⟨hframe, -⟩ | ⟨code, info, hraised, rfl⟩
  case inr => exact inv_raiseFault hs info (raisedBy_mem hraised)
  by_cases hmode : Part.mode ∈ writtenParts i
  · obtain ⟨x, rfl⟩ := (mode_mem_writtenParts_iff i).1 hmode
    cases h
    exact inv_suspend hs hm x
  · refine inv_of_changesOnly hs (exec_keeps_wf h hs.memCanonical) (exec_stackAt_zero h) (hframe.mono fun p hp => ?_)
    have hp' := writtenParts_subset i hp
    have hne : p ≠ .mode := fun heq => hmode (heq ▸ hp)
    cases p <;> simp_all

theorem inv_reportUnknown {s : State} (hs : s.Inv) (w : Word) : (s.reportUnknown w).Inv := by
  unfold State.reportUnknown
  split <;> exact { hs with }

theorem instructionStep_keeps_inv {s t : State} (hs : s.Inv) (henabled : s.Enabled)
    (h : instructionStep s = .next t) : t.Inv := by
  have hcount : s.countStep.Inv := inv_setIpfCnt hs henabled.2
  rcases instructionStep_cases h with ⟨-, rfl⟩ | ⟨-, -, rfl⟩ | ⟨-, i, -, hexec⟩
  · exact inv_raiseFault hcount _ (by simp)
  · exact inv_reportUnknown hcount _
  · exact exec_keeps_inv hcount henabled.1 hexec

/-! ### The invariant along every other step -/

theorem inv_tickStep {s : State} (hs : s.Inv) : s.tickStep.Inv := { hs with budgetKept := Nat.zero_le _ }

theorem inv_clockStep {s : State} (hs : s.Inv) {d : Nat} (hd : s.params.divider = some d) : (s.clockStep d).Inv := by
  have hlt := hs.dividerBelow d hd
  unfold State.clockStep
  split
  · exact inv_setDivCnt (inv_tickStep hs) hd (by omega)
  · exact inv_setDivCnt hs hd (by omega)

theorem inv_passTime {s : State} (hs : s.Inv) : s.passTime.Inv := by
  unfold State.passTime
  split
  case h_1 => exact inv_tickStep hs
  case h_2 d hd => exact inv_clockStep hs hd

theorem inv_keyEdgeStep {s : State} (hs : s.Inv) (k : Key) : (s.keyEdgeStep k).Inv := by
  by_cases hwait : s.mode = .waitKey
  · rw [keyEdgeStep_of_waitKey k hwait]
    have hkey : ((s.setReg s.wx (BitVec.ofNat 8 k.val)).advance).Inv := { hs with }
    exact inv_setMode hkey (show s.mode ≠ .halted by simp [hwait]) (by decide)
  · rwa [keyEdgeStep_of_not_waitKey k hwait]

theorem inv_setOut {s : State} (hs : s.Inv) (o : Signals) : (s.setOut o).Inv := { hs with }

theorem inv_writeBytes {s : State} (hs : s.Inv) (f : Nat → Byte) (ea n : Nat) : (State.writeBytes f ea n s).Inv := by
  refine inv_of_changesOnly hs ?_ (State.writeBytes_stackAt f ea n s 0)
    ((changesOnly_writeBytes f ea n s).mono (by decide))
  rw [State.writeBytes_params]
  exact writeBytes_keeps_wf f ea n s hs.memCanonical

/-- Reset meets the invariant under parameters within their bounds (00_scope.md R8). -/
theorem inv_afterReset {p : Params} (e : Env) (hipf : 1 ≤ p.ipf) (hdiv : ∀ d, p.divider = some d → 0 < d) :
    (State.afterReset p e).Inv where
  memCanonical := rfl
  budgetPositive := hipf
  budgetKept := Nat.zero_le _
  dividerAbsent := fun _ => rfl
  dividerBelow := hdiv
  haltedIffFault := by simp [State.afterReset]
  infoClear := fun _ => rfl
  faultKind := by simp [State.afterReset]
  stackBase := afterReset_stackAt p e 0

theorem inv_resetStep {s : State} (hs : s.Inv) : s.resetStep.Inv :=
  inv_afterReset s.env hs.budgetPositive fun d hd => Nat.zero_lt_of_lt (hs.dividerBelow d hd)

/-- Settles O51: every way a step answers keeps the invariant. -/
theorem stepKeepsInvariant : Obligations.StepKeepsInvariant := by
  intro s t hs h
  have hbegun := inv_beginStep hs
  rcases step_cases h with ⟨henabled, -, hinstr⟩ | ⟨-, -, rfl⟩ | ⟨-, -, rfl⟩ | ⟨-, -, rfl⟩ | ⟨d, hd, -, rfl⟩ |
    ⟨k, -, rfl⟩ | ⟨levels, -, rfl⟩ | ⟨-, rfl⟩ | ⟨hidle, -, rfl⟩ | ⟨rom, -, -, ⟨-, rfl⟩ | ⟨-, rfl⟩⟩
  · exact instructionStep_keeps_inv hbegun henabled hinstr
  · exact hbegun
  · exact inv_passTime hbegun
  · exact inv_tickStep hbegun
  · exact inv_clockStep hbegun hd
  · exact inv_keyEdgeStep hbegun k
  · exact { hbegun with }
  · exact inv_resetStep hbegun
  · exact inv_setMode hbegun (show s.mode ≠ .halted by simp [hidle]) (by decide)
  · exact inv_setOut (inv_writeBytes hbegun _ _ _) _
  · exact inv_setOut hbegun _

end Sys2Proof.Machine
end

section
/-! PROOF. The idle core (spec/70_reset_and_hazards.md R232, R234): before start its timers and budget are 0, so that time and
the environment find nothing to change. -/

namespace Sys2Proof.Machine

/-- The idle core's registers, framebuffer and control state are kept where nothing but memory, the divider's count and
the environment's parts change. -/
theorem idleIsReset_of_changesOnly {s t : State} (hs : s.IdleIsReset)
    (h : ChangesOnly [.mem, .divCnt, .agenda, .keyLevels, .strobes] s t) : t.IdleIsReset := by
  intro hidle
  have hmode : t.mode = s.mode := h .mode (by decide)
  obtain ⟨hreg, hi, hpc, hstack, hsp, hdt, hst, hpixel, hfault, hipf⟩ := hs (hmode.symm.trans hidle)
  exact ⟨fun x => (h .regs (by decide) x).trans (hreg x), (h .index (by decide)).trans hi,
    (h .pc (by decide)).trans hpc, fun j => (h .stack (by decide) j).trans (hstack j), (h .sp (by decide)).trans hsp,
    (h .dt (by decide)).trans hdt, (h .st (by decide)).trans hst,
    fun c r => (h .fb (by decide) c r).trans (hpixel c r), (h .fault (by decide)).1.trans hfault,
    (h .ipfCnt (by decide)).trans hipf⟩

theorem rested_of_idleIsReset {s : State} (hs : s.IdleIsReset) (hidle : s.mode = .idle) : s.Rested := by
  obtain ⟨-, -, -, -, -, hdt, hst, -, -, hipf⟩ := hs hidle
  exact ⟨hidle, hdt, hst, hipf⟩

theorem idleIsReset_of_mode_ne {s : State} (h : s.mode ≠ .idle) : s.IdleIsReset := fun hidle => absurd hidle h

theorem idleIsReset_afterReset (p : Params) (e : Env) : (State.afterReset p e).IdleIsReset := fun _ =>
  ⟨afterReset_reg p e, rfl, rfl, afterReset_stackAt p e, rfl, rfl, rfl, afterReset_pixel p e, rfl, rfl⟩

theorem idleIsReset_tickStep {s : State} (hs : s.IdleIsReset) : s.tickStep.IdleIsReset := by
  by_cases hidle : s.mode = .idle
  · exact idleIsReset_of_changesOnly hs
      ((changesOnly_tickStep_of_rested (rested_of_idleIsReset hs hidle)).mono (by decide))
  · exact idleIsReset_of_mode_ne hidle

theorem idleIsReset_clockStep {s : State} (hs : s.IdleIsReset) (d : Nat) : (s.clockStep d).IdleIsReset := by
  by_cases hidle : s.mode = .idle
  · exact idleIsReset_of_changesOnly hs
      ((changesOnly_clockStep_of_rested (rested_of_idleIsReset hs hidle) d).mono (by decide))
  · exact idleIsReset_of_mode_ne (mt ((changesOnly_clockStep d s .mode (by decide)).symm.trans) hidle)

theorem idleIsReset_passTime {s : State} (hs : s.IdleIsReset) : s.passTime.IdleIsReset := by
  unfold State.passTime
  split
  · exact idleIsReset_tickStep hs
  · exact idleIsReset_clockStep hs _

theorem idleIsReset_keyEdgeStep {s : State} (hs : s.IdleIsReset) (k : Key) : (s.keyEdgeStep k).IdleIsReset := by
  by_cases hwait : s.mode = .waitKey
  · rw [keyEdgeStep_of_waitKey k hwait]
    exact idleIsReset_of_mode_ne (show Mode.run ≠ .idle by decide)
  · rwa [keyEdgeStep_of_not_waitKey k hwait]

/-- An instruction step never ends IDLE. -/
theorem instructionStep_mode_ne_idle {s t : State} (h : instructionStep s = .next t) (hrun : s.mode = .run) :
    t.mode ≠ .idle := by
  rcases instructionStep_mode h with hsame | ⟨hwait, -⟩ | ⟨hhalted, -⟩
  · simp [hsame, hrun]
  · simp [hwait]
  · simp [hhalted]

/-- Settles O52: a step that ends IDLE is a reset, or leaves an idle core, whose timers and budget are 0, at rest. -/
theorem stepKeepsIdleAsReset : Obligations.StepKeepsIdleAsReset := by
  intro s t hs h
  have hbegun : s.beginStep.IdleIsReset := idleIsReset_of_changesOnly hs ((changesOnly_beginStep s).mono (by decide))
  rcases step_cases h with ⟨henabled, -, hinstr⟩ | ⟨-, -, rfl⟩ | ⟨-, -, rfl⟩ | ⟨-, -, rfl⟩ | ⟨d, -, -, rfl⟩ |
    ⟨k, -, rfl⟩ | ⟨levels, -, rfl⟩ | ⟨-, rfl⟩ | ⟨-, -, rfl⟩ | ⟨rom, -, -, ⟨-, rfl⟩ | ⟨-, rfl⟩⟩
  · exact idleIsReset_of_mode_ne (instructionStep_mode_ne_idle hinstr henabled.1)
  · exact hbegun
  · exact idleIsReset_passTime hbegun
  · exact idleIsReset_tickStep hbegun
  · exact idleIsReset_clockStep hbegun d
  · exact idleIsReset_keyEdgeStep hbegun k
  · exact idleIsReset_of_changesOnly hbegun ((changesOnly_setKeyLevels s.beginStep levels).mono (by decide))
  · exact idleIsReset_afterReset _ _
  · exact idleIsReset_of_mode_ne (show Mode.run ≠ .idle by decide)
  · exact idleIsReset_of_changesOnly hbegun
      (((changesOnly_writeBytes _ _ _ _).trans (changesOnly_setOut _ _)).mono (by decide))
  · exact idleIsReset_of_changesOnly hbegun ((changesOnly_setOut _ _).mono (by decide))

/-- Settles O53: the reset state is a state after reset, under parameters within their bounds. -/
theorem resetMeetsTheInvariants : Obligations.ResetMeetsTheInvariants :=
  ⟨inv_afterReset _ (by decide) (fun _ hd => by cases hd), idleIsReset_afterReset _ _, rfl, afterReset_reg _ _, rfl⟩

end Sys2Proof.Machine
end

section
/-! PROOF. The budget (spec/60_exceptions.md R214): a step that cannot clear it counts exactly the instruction steps. -/

namespace Sys2Proof.Machine

theorem takesInstruction_iff (s : State) : s.takesInstruction = true ↔ s.Enabled ∧ s.InstrNext := by
  rw [State.takesInstruction, Bool.and_eq_true, canRun_iff]
  refine and_congr_right fun _ => ?_
  unfold State.InstrNext
  split <;> simp_all

/-- An entry of the agenda that is no instruction step. -/
theorem not_instrNext {s : State} {e : Event} {rest : List Event} (h : s.env.agenda = e :: rest) (he : e ≠ .instr) :
    ¬ s.InstrNext := by
  simp [State.InstrNext, h, he]

theorem passTime_ipfCnt {s : State} (h : s.tickDue = false) : s.passTime.ipfCnt = s.ipfCnt := by
  cases hd : s.params.divider with
  | none => simp [State.tickDue, hd] at h
  | some d =>
    have hpass : s.passTime = s.clockStep d := by simp only [State.passTime, hd]
    rw [hpass, clockStep_of_not_due s d hd h, State.setDivCnt_ipfCnt]

/-- A step that cannot clear the budget counts one if it is an instruction step, and else nothing. -/
theorem step_ipfCnt {s t : State} (h : step s = .next t) (hclear : s.mayClearBudget = false) :
    t.ipfCnt = s.ipfCnt + if s.takesInstruction then 1 else 0 := by
  have hinstr_iff := takesInstruction_iff s
  have hidle {u : State} (hno : ¬ (s.Enabled ∧ s.InstrNext)) (hu : u.ipfCnt = s.ipfCnt) :
      u.ipfCnt = s.ipfCnt + if s.takesInstruction then 1 else 0 := by
    rw [if_neg (mt hinstr_iff.1 hno), hu, Nat.add_zero]
  rcases step_cases h with ⟨henabled, hnext, hinstr⟩ | ⟨hnot, -, rfl⟩ | ⟨hnot, ha, rfl⟩ | ⟨-, ⟨rest, ha⟩, rfl⟩ |
    ⟨d, hd, ⟨rest, ha⟩, rfl⟩ | ⟨k, ⟨rest, ha⟩, rfl⟩ | ⟨levels, ⟨rest, ha⟩, rfl⟩ | ⟨⟨rest, ha⟩, rfl⟩ |
    ⟨hm, ⟨rest, ha⟩, rfl⟩ | ⟨rom, hm, ⟨rest, ha⟩, hload⟩
  · rw [if_pos (hinstr_iff.2 ⟨henabled, hnext⟩)]
    have hcount : t.ipfCnt = s.beginStep.ipfCnt + 1 := instructionStep_ipfCnt hinstr
    exact hcount
  · exact hidle (fun hboth => hnot hboth.1) rfl
  · have hdue : s.tickDue = false := by simpa [State.mayClearBudget, ha, canRun_eq_false hnot] using hclear
    exact hidle (fun hboth => hnot hboth.1) (passTime_ipfCnt (show s.beginStep.tickDue = false from hdue))
  · simp [State.mayClearBudget, ha] at hclear
  · have hdue : s.tickDue = false := by simpa [State.mayClearBudget, ha] using hclear
    refine hidle (fun hboth => not_instrNext ha (by simp) hboth.2) ?_
    rw [clockStep_of_not_due s.beginStep d hd hdue]
    rfl
  · exact hidle (fun hboth => not_instrNext ha (by simp) hboth.2)
      (changesOnly_keyEdgeStep k s.beginStep .ipfCnt (by decide))
  · exact hidle (fun hboth => not_instrNext ha (by simp) hboth.2) rfl
  · simp [State.mayClearBudget, ha] at hclear
  · exact hidle (fun hboth => not_instrNext ha (by simp) hboth.2) rfl
  · refine hidle (fun hboth => not_instrNext ha (by simp) hboth.2) ?_
    rcases hload with ⟨-, rfl⟩ | ⟨-, rfl⟩
    · exact State.writeBytes_ipfCnt _ _ _ _
    · rfl

/-- An instruction step finds room in the budget. -/
theorem ipfCnt_add_takesInstruction_le {s : State} (hs : s.Inv) :
    s.ipfCnt + (if s.takesInstruction then 1 else 0) ≤ s.params.ipf := by
  split
  case isTrue h => exact ((takesInstruction_iff s).1 h).1.2
  case isFalse => exact hs.budgetKept

/-- Settles O45, by induction on the number of steps: each one moves its count into the budget counter. -/
theorem budgetCapsInstructionSteps : Obligations.BudgetCapsInstructionSteps := by
  intro k
  induction k with
  | zero => exact fun s hs _ => hs.budgetKept
  | succ k ih =>
    intro s hs hno
    simp only [noTickWithin, Bool.and_eq_true, Bool.not_eq_true'] at hno
    obtain ⟨hclear, hrest⟩ := hno
    have hroom := ipfCnt_add_takesInstruction_le hs
    rw [instructionSteps]
    cases hstep : step s with
    | next t =>
      simp only [hstep] at hrest
      have hcount := step_ipfCnt hstep hclear
      have hparams : t.params = s.params := stepKeepsParameters s t hstep
      have hcap := ih t (stepKeepsInvariant s t hs hstep) hrest
      rw [hparams] at hcap
      show s.ipfCnt + ((if s.takesInstruction then 1 else 0) + instructionSteps k t) ≤ s.params.ipf
      omega
    | fault r => cases r
    | refused r => exact hroom

end Sys2Proof.Machine
end
